-- ==== Sys2Proof/Config.lean ====
section
/-! DEFINITION. The implementation parameters of the SiMI pipeline engine (spec/00_scope.md rule R8). Every constant
here is one row of that rule's table. VALUE_WIDTH, the one parameter the spec leaves OPEN, is not here: it is a field
of the machine's state (`Machine.State.width`), so that every statement about all states is a statement about every
width; only the value it has in `Machine.State.reset` is named here. -/

namespace Sys2Proof.Config

/-- NUM_REGS: the general registers are R0 to R31 (R8, R20). -/
abbrev numRegs : Nat := 32

/-- MEM_WORDS: the data memory has 128 cells (R8, R50). -/
abbrev memWords : Nat := 128

/-- WORD_BYTES: the byte address of cell k is 8k (R8, R50). -/
abbrev wordBytes : Nat := 8

/-- MEM_BYTES: byte addresses run from 0 to 1023 (R8, R51). -/
abbrev memBytes : Nat := 1024

/-- STORE_CAP: the instruction store has 128 entries (R8, R41). -/
abbrev storeCap : Nat := 128

/-- CYCLE_BASE: the number of the first cycle (R8, R34). -/
abbrev cycleBase : Nat := 1

/-- ISSUE_BASE: the first issue number; the spec's own decision D5 gives the value 1 for this hardware (R8, R27). -/
abbrev issueBase : Nat := 1

/-- The VALUE_WIDTH that `Machine.State.reset` carries: 32, the width of every example in spec/95_test_vectors.md.
DESIGN CHOICE, unsafe (notes/assumptions/1.md): the spec leaves VALUE_WIDTH open (R8, 92_eei_decisions.md D1). -/
abbrev resetWidth : Nat := 32

end Sys2Proof.Config
end

