-- ==== Sys2Proof/Word.lean ====
section
/-! DEFINITION. The type of W-bit values and the map `word(n)` of spec/00_scope.md rule R9.

W is VALUE_WIDTH, the spec's open parameter, so no bit vector type of a fixed width can be its type. A Word is held by
its signed value `sint(v)`, an integer in [-2^(W-1), 2^(W-1)): R182 defines the arithmetic, R150 the addresses, R40 the
launch inputs and R43 the report in terms of exactly that integer (notes/assumptions/2.md, DESIGN CHOICE, safe). -/

namespace Sys2Proof

/-- A W-bit value, held by its two's-complement reading `sint(v)` (R9). -/
abbrev Word := Int

/-- `word(n)`: the W-bit value congruent to the integer n modulo 2^W, by its signed reading (R9). -/
def Word.ofInt (W : Nat) (n : Int) : Word := Int.bmod n (2 ^ W)

/-- v is the signed reading of some W-bit value: wrapping it changes nothing. -/
abbrev Word.Canonical (W : Nat) (v : Word) : Prop := Word.ofInt W v = v

end Sys2Proof
end

