-- ==== Sys2Proof/Syntax.lean ====
section
/-! DEFINITION. The instructions of the engine (spec/30_encoding.md): the structured record the instruction store
holds (R70) and the decoded instruction, one constructor per row of spec/opcode_table.json (R72, R73). -/

namespace Sys2Proof

/-- One decoded instruction: its opcode and exactly the fields its format uses (R72, R73). Register index fields are
integers, not 5-bit fields, so that an index outside 0 to 31 can be written and caught at ID (R70, R79, R202). -/
inductive Instr where
  /-- LOAD rd, offset(rs): format M-load (R151). -/
  | load (rd rs offset : Int)
  /-- STORE rt, offset(rs): format M-store, the data register first, as R83 writes it (R156). -/
  | store (rt rs offset : Int)
  /-- BRANCH_NE_ZERO rs, target: format B, an absolute instruction index (R170). -/
  | bnez (rs target : Int)
  /-- ADD rd, rs, rt: format RR (R184). -/
  | add (rd rs rt : Int)
  /-- ADD_IMMEDIATE rd, rs, imm: format RI (R185). -/
  | addi (rd rs imm : Int)
  /-- SUB rd, rs, rt: format RR (R186). -/
  | sub (rd rs rt : Int)
  /-- SUB_IMMEDIATE rd, rs, imm: format RI (R187). -/
  | subi (rd rs imm : Int)
  /-- NOP: the empty-slot sentinel, format N (R190). -/
  | nop
  deriving DecidableEq, Repr

/-- An instruction record, the form an instruction has in the instruction store (R70). The opcode is held by its 3-bit
code of R72, which is all of a record that has an encoding (R77); every 3-bit code names an opcode (R79). -/
structure Record where
  /-- The opcode, by its code (R72). -/
  code : BitVec 3
  /-- Destination register index. -/
  rd : Int
  /-- First source register index. -/
  rs : Int
  /-- Second source register index, or absent. -/
  rt : Option Int
  /-- Byte displacement, immediate or target instruction index (R75). -/
  offset : Int
  deriving DecidableEq, Repr

end Sys2Proof
end

