-- ==== Sys2Proof/WellFormed.lean ====
section
/-! DEFINITION. Well-formed records, instructions and launches (spec/30_encoding.md rule R78). Register index fields
are not checked here: an index outside 0 to 31 is the engine's own fatal error at ID (R78, R202). -/

namespace Sys2Proof

/-- n is in the signed W-bit range [-2^(W-1), 2^(W-1)) (R78 points 3, 5 and 6). -/
def inSignedRange (W : Nat) (n : Int) : Bool :=
  decide (-(2 : Int) ^ (W - 1) ≤ n) && decide (n < (2 : Int) ^ (W - 1))

/-- n is a target index in 0 to 127 (R78 point 4). -/
def isTarget (n : Int) : Bool :=
  decide (0 ≤ n) && decide (n < Config.storeCap)

/-- The operand ranges of a well-formed instruction (R78 points 3 and 4). -/
def Instr.wf (W : Nat) : Instr → Bool
  | .load _ _ offset => inSignedRange W offset
  | .store _ _ offset => inSignedRange W offset
  | .bnez _ target => isTarget target
  | .add _ _ _ => true
  | .addi _ _ imm => inSignedRange W imm
  | .sub _ _ _ => true
  | .subi _ _ imm => inSignedRange W imm
  | .nop => true

/-- The formats with an rt field are those of STORE (1), ADD (3) and SUB (5) (R73). -/
def codeHasRt (code : BitVec 3) : Bool :=
  code == 1 || code == 3 || code == 5

/-- The record has exactly the fields of its format: rt is present where the format uses it and absent elsewhere
(R78 point 2). -/
def Record.shapeOk (r : Record) : Bool :=
  r.rt.isSome == codeHasRt r.code

/-- The offset of a record is in the range its opcode asks for: the signed W-bit range for LOAD (0), STORE (1),
ADD_IMMEDIATE (4) and SUB_IMMEDIATE (6), a target index for BRANCH_NE_ZERO (2), anything elsewhere, where it is never
read (R78 points 3 and 4, R74). -/
def Record.offsetOk (W : Nat) (r : Record) : Bool :=
  if r.code == 2 then isTarget r.offset
  else if r.code == 0 || r.code == 1 || r.code == 4 || r.code == 6 then inSignedRange W r.offset
  else true

/-- A well-formed record (R78 points 2, 3 and 4). -/
def Record.wf (W : Nat) (r : Record) : Bool :=
  r.shapeOk && r.offsetOk W

/-- The launch inputs (R40), with the open parameter VALUE_WIDTH (R8): the instruction list, the initial registers by
index and the initial memory by byte address. -/
structure Launch where
  /-- VALUE_WIDTH, a positive integer (92_eei_decisions.md D1). -/
  width : Nat
  /-- The ordered instruction list. -/
  program : List Record
  /-- Initial register values: index and value. -/
  registers : List (Int × Int)
  /-- Initial memory values: byte address and value. -/
  memory : List (Int × Int)
  deriving DecidableEq, Repr

/-- An initial-register entry: key in 0 to 31, value in range (R78 point 5). -/
def Launch.registerOk (W : Nat) (e : Int × Int) : Bool :=
  decide (0 ≤ e.1) && decide (e.1 < Config.numRegs) && inSignedRange W e.2

/-- An initial-memory entry: key a multiple of 8 in 0 to 1016, value in range (R78 point 6). -/
def Launch.memoryOk (W : Nat) (e : Int × Int) : Bool :=
  decide (e.1 % Config.wordBytes = 0) && decide (0 ≤ e.1) && decide (e.1 ≤ 1016) && inSignedRange W e.2

/-- A well-formed launch: R78 points 1 to 6. The two initial-value lists are mappings (R40), so no key stands twice,
and the width is a positive integer (D1). -/
def Launch.wf (l : Launch) : Bool :=
  decide (0 < l.width)
    && decide (l.program.length ≤ Config.storeCap)
    && l.program.all (Record.wf l.width)
    && l.registers.all (Launch.registerOk l.width)
    && l.memory.all (Launch.memoryOk l.width)
    && decide (l.registers.map Prod.fst).Nodup
    && decide (l.memory.map Prod.fst).Nodup

end Sys2Proof
end

