-- ==== Sys2Proof/Decode.lean ====
section
/-! DEFINITION. From records to instructions and back (spec/30_encoding.md rules R70 to R80). The engine decodes no bits:
an instruction is a record in one store entry (R77, R81), and decoding reads the record's code and the fields its format
uses. A record with a field too many or too few is rejected by name (R78 point 2). -/

namespace Sys2Proof

/-- Why a record is no instruction. A record that is rejected has no meaning in the model (R78). -/
inductive DecodeError where
  /-- The format has an rt field and the record has none (R78 point 2). -/
  | rtMissing (code : BitVec 3)
  /-- The format has no rt field and the record has one (R78 point 2). -/
  | rtPresent (code : BitVec 3)
  deriving DecidableEq, Repr

/-- The instruction a record stands for: the code picks the row of R72, the format of R73 the fields. -/
def decode (r : Record) : Except DecodeError Instr :=
  match r.code.toNat, r.rt with
  | 0, none => .ok (.load r.rd r.rs r.offset)
  | 1, some rt => .ok (.store rt r.rs r.offset)
  | 2, none => .ok (.bnez r.rs r.offset)
  | 3, some rt => .ok (.add r.rd r.rs rt)
  | 4, none => .ok (.addi r.rd r.rs r.offset)
  | 5, some rt => .ok (.sub r.rd r.rs rt)
  | 6, none => .ok (.subi r.rd r.rs r.offset)
  | 7, none => .ok .nop
  | _, none => .error (.rtMissing r.code)
  | _, some _ => .error (.rtPresent r.code)

/-- The code of R72. -/
def Instr.code : Instr → BitVec 3
  | .load _ _ _ => 0b000
  | .store _ _ _ => 0b001
  | .bnez _ _ => 0b010
  | .add _ _ _ => 0b011
  | .addi _ _ _ => 0b100
  | .sub _ _ _ => 0b101
  | .subi _ _ _ => 0b110
  | .nop => 0b111

/-- The record of an instruction: its code and the fields of its format (R72, R73). A field the format does not use is
written 0; its content is never read (R74). -/
def encode (i : Instr) : Record :=
  match i with
  | .load rd rs offset => ⟨i.code, rd, rs, none, offset⟩
  | .store rt rs offset => ⟨i.code, 0, rs, some rt, offset⟩
  | .bnez rs target => ⟨i.code, 0, rs, none, target⟩
  | .add rd rs rt => ⟨i.code, rd, rs, some rt, 0⟩
  | .addi rd rs imm => ⟨i.code, rd, rs, none, imm⟩
  | .sub rd rs rt => ⟨i.code, rd, rs, some rt, 0⟩
  | .subi rd rs imm => ⟨i.code, rd, rs, none, imm⟩
  | .nop => ⟨i.code, 0, 0, none, 0⟩

/-- The record of a word of spec/opcode_table.json: the word's three low bits are the code (mask 0x7, R77), the other
fields are those of the code's format, all 0. No bit of a word but those three has a meaning (R77), and none is read. A
word of fewer than three bits holds no code. DESIGN CHOICE (notes/assumptions/5.md). -/
def tableRecord (nbits w : Nat) : Option Record :=
  if nbits < 3 then none
  else
    let code := BitVec.ofNat 3 w
    some ⟨code, 0, 0, if codeHasRt code then some 0 else none, 0⟩

/-- The instruction the decoder reads from a word of spec/opcode_table.json with every operand field 0. -/
def decodeTableWord (nbits w : Nat) : Option Instr :=
  match tableRecord nbits w with
  | none => none
  | some r =>
    match decode r with
    | .ok i => some i
    | .error _ => none

end Sys2Proof
end

