-- ==== Sys2Proof/Machine/State.lean ====
section
/-! DEFINITION. The state of the engine (spec/10_state.md), as plain data, and its value after reset
(spec/70_reset_and_hazards.md rule R230). -/

namespace Sys2Proof.Machine

/-- The eight stages, which are also the eight slot positions 0 (IF1) to 7 (WB) (R28). -/
inductive Stage where
  | if1 | if2 | id | ex | mem1 | mem2 | mem3 | wb
  deriving DecidableEq, Repr

/-- The event tags (R42). -/
inductive Tag where
  | if1 | if2 | id | ex | mem1 | mem2 | mem3 | wb | stall
  deriving DecidableEq, Repr

/-- An event (label, tag); the label is "I" followed by the number (R42). -/
structure Event where
  label : Nat
  tag : Tag
  deriving DecidableEq, Repr

/-- A cycle record: the cycle's number and its events in emission order (R42, R131). -/
structure CycleRecord where
  number : Nat
  events : List Event
  deriving DecidableEq, Repr

/-- An in-flight instruction (R29). -/
structure InFlight where
  /-- The decoded record. -/
  ins : Instr
  /-- The issue number given at fetch. -/
  label : Nat
  /-- The value read from rs at ID; none until the instruction leaves ID. -/
  rsv : Option Word
  /-- The value read from rt at ID when rt is a register; none otherwise. -/
  rtv : Option Word
  deriving DecidableEq, Repr

/-- `slot[0..8)` (R28). `none` is EMPTY, the NOP sentinel. -/
structure Slots where
  /-- Slot 0, IF1. -/
  slot0 : Option InFlight
  /-- Slot 1, IF2. -/
  slot1 : Option InFlight
  /-- Slot 2, ID. -/
  slot2 : Option InFlight
  /-- Slot 3, EX. -/
  slot3 : Option InFlight
  /-- Slot 4, MEM1. -/
  slot4 : Option InFlight
  /-- Slot 5, MEM2. -/
  slot5 : Option InFlight
  /-- Slot 6, MEM3. -/
  slot6 : Option InFlight
  /-- Slot 7, WB. -/
  slot7 : Option InFlight
  deriving DecidableEq, Repr

/-- Why a run is Done (R35). -/
inductive DoneReason where
  /-- The all-EMPTY test of R132. -/
  | drained
  /-- The cursor-range test of R140. -/
  | cursorOut
  deriving DecidableEq, Repr

/-- The two fatal conditions (R202, R204). -/
inductive FatalKind where
  | regIndex | memIndex
  deriving DecidableEq, Repr

/-- The field a fatal error names (R203). -/
inductive FatalField where
  | rd | rs | rt | address
  deriving DecidableEq, Repr

/-- The failure info of a fatal error (R203). -/
structure FatalInfo where
  kind : FatalKind
  /-- The issue number of the offending instruction. -/
  label : Nat
  field : FatalField
  /-- The bad index, or the computed byte address. -/
  value : Int
  deriving DecidableEq, Repr

/-- The run status (R35). -/
inductive Status where
  | running
  | done (reason : DoneReason)
  | fatal (info : FatalInfo)
  deriving DecidableEq, Repr

/-- The data memory: (byte address of a cell, its Word) pairs, addresses strictly rising, no entry equal to 0, which is
what an unlisted cell reads as (R39, R50). A cell, not a byte, is the smallest unit of storage (R50, R53). -/
abbrev Memory := List (Nat × Word)

/-- Everything the spec gives the engine (R20 to R43), the launch's parameters (R8, R15), and one field of the
model's own, `stage`. -/
structure State where
  /-- VALUE_WIDTH: constant during a run, open in the spec (R8, R15). -/
  width : Nat
  /-- The instruction store, immutable during a run (R41, R61): the launch list, its entries 0 to N-1; every entry from
  N on is the NOP sentinel (`storeEntry`). -/
  store : List Record
  /-- `registers[0..32)` (R20). -/
  regs : Vector Word Config.numRegs
  /-- `memory[0..128)` (R38, R50). -/
  mem : Memory
  /-- The fetch cursor, an integer index into the store (R24). -/
  cursor : Int
  /-- The issue counter (R27). -/
  issue : Nat
  /-- `slot[0..8)` (R28). -/
  slots : Slots
  /-- `reserved[0..32)` (R31). -/
  reserved : Vector Bool Config.numRegs
  /-- The stall decision of the previous cycle (R32). -/
  currentStall : Bool
  /-- The stall decision of this cycle (R32). -/
  pendingStall : Bool
  /-- The branch latch's bit (R33). -/
  brTaken : Bool
  /-- The branch latch's target index (R33). -/
  brTarget : Int
  /-- The number of the cycle being executed (R34). -/
  cycle : Nat
  /-- The run status (R35). -/
  status : Status
  /-- The event list of the current cycle, in emission order (R100, R104). -/
  events : List Event
  /-- The trace: one record per completed cycle, in cycle order (R42). -/
  trace : List CycleRecord
  /-- THE MODEL'S OWN: the stage whose work `exec` does. The cycle sets it before each stage, and every cycle that
  completes leaves it at IF1, the stage it runs last (R100). notes/assumptions/4.md. -/
  stage : Stage
  deriving DecidableEq, Repr

/-- Why a step, or a meaning, stops. -/
inductive Fault where
  /-- Raised by `step` in a state whose status is already Fatal: no further cycle runs (R201), and the failure info is
  the machine's output (R44). The fatal cycle itself is a next state whose status is Fatal. Safe. -/
  | fatalError (info : FatalInfo)
  /-- Raised by a meaning whose instruction is not the occupant of the stage at work. `step` never calls one so: it
  hands `exec` the occupant of each stage, and NOP for an EMPTY slot (R28). Safe. -/
  | notInStage
  /-- Raised at EX or MEM2 by an instruction that did not pass ID: an operand value is `none`, or a destination index
  is outside 0 to 31. No run reaches such a state (R112, R118), and the spec gives it no effect. Safe. -/
  | notFromId
  deriving DecidableEq, Repr

/-- Why the model gives no meaning. -/
inductive Refusal where
  /-- Raised by an arm of `exec` for an instruction that has no meaning yet; no arm is such. Safe. -/
  | notModelled (mnemonic : String)
  /-- Raised by the fetch of a record that has not exactly the fields of its format. A launch with such a record is
  refused (R78 point 2), so no run reaches one. Safe. -/
  | illFormedRecord (why : DecodeError)
  /-- Raised by `launch` for a launch that is not well formed: it does not run (R78, R233). Safe. -/
  | illFormedLaunch
  deriving DecidableEq, Repr

/-- The record at the store's unused positions: the NOP sentinel (R41, R80). -/
def nopRecord : Record := ⟨0b111, 0, 0, none, 0⟩

/-- All eight slots EMPTY (R28). -/
def Slots.empty : Slots := ⟨none, none, none, none, none, none, none, none⟩

/-- The machine right after reset, with the launch that gives nothing: an empty instruction list and no initial values
(R230; registers R23, memory R39, store R41, cursor R26, issue R27, slots R28, table R31, latches R32 and R33, cycle
R34, status R35, trace R42). The width is a DESIGN CHOICE (notes/assumptions/1.md), and so is the model's own `stage`
(notes/assumptions/4.md). -/
def State.reset : State where
  width := Config.resetWidth
  store := []
  regs := Vector.replicate Config.numRegs 0
  mem := []
  cursor := 0
  issue := Config.issueBase
  slots := Slots.empty
  reserved := Vector.replicate Config.numRegs false
  currentStall := false
  pendingStall := false
  brTaken := false
  brTarget := 0
  cycle := Config.cycleBase
  status := .running
  events := []
  trace := []
  stage := .if1

end Sys2Proof.Machine
end

