-- ==== Sys2Proof/Machine/Ops.lean ====
section
/-! DEFINITION. The named operations over the engine's state: the data memory, the register file, the reservation table,
the slots, the event list, and the fatal error, which is the only exception the engine has (spec/10_state.md,
spec/20_memory.md, spec/60_exceptions.md). There is no return from it to stand beside it: R208. -/

namespace Sys2Proof.Machine

/-- The outcome of a step or of a meaning. -/
abbrev Out := Host.Outcome State Fault Refusal

/-- Go on with the next state; a fault or a refusal ends the sequence. -/
def Out.andThen (o : Out) (k : State → Out) : Out :=
  match o with
  | .next s => k s
  | .fault r => .fault r
  | .refused r => .refused r

/-! ### Data memory (R50 to R55) -/

/-- The Word at a byte address; an unlisted cell holds its reset value 0 (R39). -/
def Memory.read : Memory → Nat → Word
  | [], _ => 0
  | (b, v) :: m, a => if a = b then v else Memory.read m a

/-- Write the Word v at a byte address, keeping the canonical form: a cell that holds 0 is not listed. -/
def Memory.write : Memory → Nat → Word → Memory
  | [], a, v => if v = 0 then [] else [(a, v)]
  | (b, u) :: m, a, v =>
    if a < b then (if v = 0 then (b, u) :: m else (a, v) :: (b, u) :: m)
    else if a = b then (if v = 0 then m else (a, v) :: m)
    else (b, u) :: Memory.write m a v

/-- The canonical form from byte address `lo` on: addresses strictly rising, each that of a cell (a multiple of 8 below
1024, R50), and no listed cell equal to 0. -/
def Memory.wfFrom : Nat → Memory → Bool
  | _, [] => true
  | lo, (a, v) :: m =>
    decide (lo ≤ a) && decide (a % Config.wordBytes = 0) && decide (a < Config.memBytes) && decide (v ≠ 0)
      && Memory.wfFrom (a + 1) m

/-- The memory is in its canonical form. -/
def Memory.wf (m : Memory) : Bool := Memory.wfFrom 0 m

/-- `MemRead(a, 8)` of R52, for the byte address a of a cell. -/
def State.memRead (s : State) (a : Nat) : Word := Memory.read s.mem a

/-- `MemWrite(a, 8, v)` of R52, for the byte address a of a cell. -/
def State.memWrite (s : State) (a : Nat) (v : Word) : State := { s with mem := Memory.write s.mem a v }

/-! ### Instruction store (R41) -/

/-- Entry k of the instruction store: the list's entry, or the NOP sentinel from the list's end on (R41). -/
def storeEntry : List Record → Nat → Record
  | [], _ => nopRecord
  | r :: _, 0 => r
  | _ :: rest, k + 1 => storeEntry rest k

/-- The store with entry k replaced. Only the host's load of a program does this: no cycle writes the store (R61). -/
def placeEntry : List Record → Nat → Record → List Record
  | [], 0, r => [r]
  | [], k + 1, r => nopRecord :: placeEntry [] k r
  | _ :: rest, 0, r => r :: rest
  | q :: rest, k + 1, r => q :: placeEntry rest k r

/-! ### Registers and the reservation table (R21, R31) -/

/-- A register index, if it is one: 0 to 31 (R21, R202). -/
def regIndex? (i : Int) : Option (Fin Config.numRegs) :=
  if h : 0 ≤ i ∧ i.toNat < Config.numRegs then some ⟨i.toNat, h.2⟩ else none

/-- `x[i]`; none for an index outside 0 to 31 (R21). R0 is an ordinary register (R22). -/
def State.readReg? (s : State) (i : Int) : Option Word := (regIndex? i).map fun k => s.regs[k]

/-- `x[k] <- v` (R21). -/
def State.writeReg (s : State) (k : Fin Config.numRegs) (v : Word) : State := { s with regs := s.regs.set k v }

/-- `is_reserved(i)` (R31); false for an index outside 0 to 31, which CHECK_REGS never lets through (R112). -/
def State.isReserved (s : State) (i : Int) : Bool :=
  match regIndex? i with
  | some k => s.reserved[k]
  | none => false

/-- `reserve(k)` and `release(k)`: the reservation bit of register k becomes b (R31). -/
def State.setReserved (s : State) (k : Fin Config.numRegs) (b : Bool) : State :=
  { s with reserved := s.reserved.set k b }

/-- `reserve(i)`; an index outside 0 to 31, which CHECK_REGS never lets through, reserves nothing (R112, R113). -/
def State.reserve (s : State) (i : Int) : State :=
  match regIndex? i with
  | some k => s.setReserved k true
  | none => s

/-! ### Slots, events and latches (R28, R32, R104) -/

/-- The content of the slot of a stage (R28). -/
def Slots.get (sl : Slots) : Stage → Option InFlight
  | .if1 => sl.slot0
  | .if2 => sl.slot1
  | .id => sl.slot2
  | .ex => sl.slot3
  | .mem1 => sl.slot4
  | .mem2 => sl.slot5
  | .mem3 => sl.slot6
  | .wb => sl.slot7

/-- Load the slot of a stage. -/
def Slots.put (sl : Slots) (st : Stage) (v : Option InFlight) : Slots :=
  match st with
  | .if1 => { sl with slot0 := v }
  | .if2 => { sl with slot1 := v }
  | .id => { sl with slot2 := v }
  | .ex => { sl with slot3 := v }
  | .mem1 => { sl with slot4 := v }
  | .mem2 => { sl with slot5 := v }
  | .mem3 => { sl with slot6 := v }
  | .wb => { sl with slot7 := v }

/-- `slot[n] <- v`. -/
def State.setSlot (s : State) (st : Stage) (v : Option InFlight) : State := { s with slots := s.slots.put st v }

/-- `emit(label, tag)`: append the event to the cycle's event list (R104). -/
def State.emit (s : State) (label : Nat) (tag : Tag) : State := { s with events := s.events ++ [⟨label, tag⟩] }

/-- `pending_stall <- b` (R32). -/
def State.setPending (s : State) (b : Bool) : State := { s with pendingStall := b }

/-- `br_taken <- true; br_target <- t` (R33, R170). -/
def State.takeBranch (s : State) (t : Int) : State := { s with brTaken := true, brTarget := t }

/-- The store has an entry at the cursor: a cycle runs (R25, R140). -/
abbrev State.cursorInStore (s : State) : Prop := 0 ≤ s.cursor ∧ s.cursor.toNat < Config.storeCap

/-- The stage whose work `exec` is to do. -/
def State.atStage (s : State) (st : Stage) : State := { s with stage := st }

/-- The tag of an event of ID, IF2 or IF1: the stage's own name, or `stall` exactly when `current_stall` is true
(R110, R121, R127). -/
def State.stageTag (s : State) (own : Tag) : Tag := if s.currentStall then .stall else own

/-! ### The fatal error (R201) -/

/-- `raise Fatal(kind, label, field, value)`: the run stops in the middle of the cycle. The status becomes Fatal with the
failure info; every write made earlier in the cycle stays; the rest of the cycle does not run, since every later piece
of it asks for the status Running (`State.ifRunning`). No state is saved and nothing is resumed (R207, R208).
DESIGN CHOICE, unsafe (notes/assumptions/19.md): at a RegIndex error of ID an older LOAD or STORE in EX or MEM1 has not been
at MEM2 and never gets there, as R201 and D18 have it, although R206 (a) says that every older instruction has made all its
effects. -/
def State.raiseFatal (s : State) (info : FatalInfo) : State := { s with status := .fatal info }

/-- Go on only while the run is Running: what follows a fatal error in its cycle does not run (R201). -/
def State.ifRunning (s : State) (k : State → Out) : Out :=
  if s.status = .running then k s else .next s

end Sys2Proof.Machine
end

