-- ==== Sys2Proof/Machine/Operands.lean ====
section
/-! DEFINITION. The operand forms of the engine (spec/30_encoding.md rules R73 to R76): the register fields an opcode uses,
the sources the hazard test reads, the values read at ID, the ALU's second operand, the arithmetic, and the effective
address of LOAD and STORE. -/

namespace Sys2Proof.Machine

/-- The rs field, for every format but N (R73). -/
def rsField : Instr → Option Int
  | .load _ rs _ => some rs
  | .store _ rs _ => some rs
  | .bnez rs _ => some rs
  | .add _ rs _ => some rs
  | .addi _ rs _ => some rs
  | .sub _ rs _ => some rs
  | .subi _ rs _ => some rs
  | .nop => none

/-- The rt field, for the formats M-store and RR (R73). "rt is a register" means that it is present (R74). -/
def rtField : Instr → Option Int
  | .load _ _ _ => none
  | .store rt _ _ => some rt
  | .bnez _ _ => none
  | .add _ _ rt => some rt
  | .addi _ _ _ => none
  | .sub _ _ rt => some rt
  | .subi _ _ _ => none
  | .nop => none

/-- The rd field, for the formats M-load, RR and RI (R73). -/
def rdField : Instr → Option Int
  | .load rd _ _ => some rd
  | .store _ _ _ => none
  | .bnez _ _ => none
  | .add rd _ _ => some rd
  | .addi rd _ _ => some rd
  | .sub rd _ _ => some rd
  | .subi rd _ _ => some rd
  | .nop => none

/-- The offset field, 0 where the format does not use it (R73). -/
def offsetField : Instr → Int
  | .load _ _ offset => offset
  | .store _ _ offset => offset
  | .bnez _ target => target
  | .add _ _ _ => 0
  | .addi _ _ imm => imm
  | .sub _ _ _ => 0
  | .subi _ _ imm => imm
  | .nop => 0

/-- The register fields an instruction uses, in the order rd, rs, rt in which they are checked (R112, R202). -/
def usedFields (i : Instr) : List (FatalField × Int) :=
  ((rdField i).toList.map fun r => (FatalField.rd, r))
    ++ ((rsField i).toList.map fun r => (FatalField.rs, r))
    ++ ((rtField i).toList.map fun r => (FatalField.rt, r))

/-- CHECK_REGS: the first used register field that holds no index in 0 to 31, and the index it holds (R112). -/
def firstBadField (i : Instr) : Option (FatalField × Int) :=
  (usedFields i).find? fun e => (regIndex? e.2).isNone

/-- SRCS: rs, and rt when it is a register (R114). The destination is never a source. -/
def sources (i : Instr) : List Int := (rsField i).toList ++ (rtField i).toList

/-- H: some source is reserved (R115). -/
def hazard (i : Instr) (s : State) : Bool := (sources i).any s.isReserved

/-- RESOLVE: the in-flight instruction with the register values it takes to EX (R118). -/
def resolve (s : State) (f : InFlight) : InFlight :=
  { f with rsv := (rsField f.ins).bind s.readReg?, rtv := (rtField f.ins).bind s.readReg? }

/-- The ALU's second operand, chosen by the record's shape: rtv when rt is a register, else word(offset) (R76, R181). -/
def secondOperand (W : Nat) (f : InFlight) : Option Word :=
  match rtField f.ins with
  | some _ => f.rtv
  | none => some (Word.ofInt W (offsetField f.ins))

/-- W-bit addition, which wraps modulo 2^W (R182). -/
def wordAdd (W : Nat) (a b : Word) : Word := Word.ofInt W (a + b)

/-- W-bit subtraction, which wraps modulo 2^W (R182). -/
def wordSub (W : Nat) (a b : Word) : Word := Word.ofInt W (a - b)

/-- `sint(rsv + word(offset))`: the effective byte address, which wraps modulo 2^W before it is checked (R150, R152). -/
def effectiveAddress (W : Nat) (base offset : Int) : Int := wordAdd W base (Word.ofInt W offset)

/-- The address check of R150 and R51: a byte address is that of a cell when it is a multiple of 8 in 0 to 1023. -/
def cellAddress? (a : Int) : Option Nat :=
  if a % Config.wordBytes = 0 ∧ 0 ≤ a ∧ a < Config.memBytes then some a.toNat else none

end Sys2Proof.Machine
end

