-- ==== Sys2Proof/Machine/Stages.lean ====
section
/-! DEFINITION. The work of the stages that all instructions share (spec/40_pipeline_engine.md rules R105 to R127), and the
frame in which an instruction's own work at ID, EX and MEM2 stands. -/

namespace Sys2Proof.Machine

/-- IF1 (R124 to R127). `content` is the fetched instruction, or none for the NOP sentinel, which is fetched as EMPTY.
The fetch is loaded into slot 0 with the current issue number as its label, an occupied slot emits its event, and the
fetch advances into slot 1, with cursor and issue counted on, exactly when `pending_stall` is false.
DEDUCED, safe (notes/assumptions/21.md): slot 1 takes the fetch of this very cycle (R124, R126), not what R30 says of every
slot, the content that the slot behind it held at the start of the cycle. -/
def State.if1Work (s : State) (content : Option Instr) : State :=
  let flight := content.map fun i => InFlight.mk i s.issue none none
  let loaded := s.setSlot .if1 flight
  let told := if flight.isSome then loaded.emit s.issue (s.stageTag .if1) else loaded
  if s.pendingStall then told
  else { told.setSlot .if2 flight with cursor := s.cursor + 1, issue := s.issue + 1 }

/-- IF2 (R122): the event of an occupied slot 1, and `slot[2] <- slot[1]` exactly when `pending_stall` is false. -/
def State.if2Work (s : State) : State :=
  let told := match s.slots.slot1 with
    | some f => s.emit f.label (s.stageTag .if2)
    | none => s
  if s.pendingStall then told else told.setSlot .id s.slots.slot1

/-- ID with an EMPTY slot 2 (R111). -/
def State.idEmpty (s : State) : State := (s.setSlot .ex none).setPending false

/-- ID with an occupied slot 2 (R110, R112 to R120). `enter` is what the opcode does on entering ID, after CHECK_REGS and
before the hazard test. A hazard stalls the instruction in slot 2 and sends a bubble to slot 3; else it goes to slot 3
with its operands resolved. The event is tagged `stall` exactly when `current_stall` is true. -/
def State.idWork (s : State) (enter : State → State) (f : InFlight) : State :=
  match firstBadField f.ins with
  | some (field, v) => s.raiseFatal ⟨.regIndex, f.label, field, v⟩
  | none =>
    let t := (enter s).emit f.label (s.stageTag .id)
    if hazard f.ins t then (t.setSlot .ex none).setPending true
    else (t.setSlot .ex (some (resolve t f))).setPending false

/-- The work of a stage on an EMPTY slot, which is the NOP sentinel (R105 to R109, R111, R122, R124, R190). -/
def State.emptyWork (s : State) : State :=
  match s.stage with
  | .if1 => s.if1Work none
  | .if2 => s.if2Work
  | .id => s.idEmpty
  | .ex => s.setSlot .mem1 none
  | .mem1 => s.setSlot .mem2 none
  | .mem2 => s.setSlot .mem3 none
  | .mem3 => s.setSlot .wb none
  | .wb => s

/-- What is an instruction's own, stage by stage: the rest of its passage is shared. -/
structure OwnWork where
  /-- On entering ID, after CHECK_REGS and before the hazard test (R113). -/
  enter : State → State
  /-- At EX, before its event (R109). -/
  ex : InFlight → State → Out
  /-- At MEM2, before its event (R107). -/
  mem2 : InFlight → State → Out

/-- No work at a stage. -/
def noWork (_ : InFlight) (s : State) : Out := .next s

/-- The work of the stage `s.stage` on the in-flight instruction f that occupies it (R105 to R110, R122). Every stage but
ID and IF2 emits the stage's event and copies its slot into the next; a fatal error at EX or MEM2 leaves both out
(R107, R201). -/
def State.flightWork (s : State) (own : OwnWork) (f : InFlight) : Out :=
  match s.stage with
  | .if1 => .next (s.if1Work (some f.ins))
  | .if2 => .next s.if2Work
  | .id => .next (s.idWork own.enter f)
  | .ex => (own.ex f s).andThen fun t => t.ifRunning fun t => .next ((t.emit f.label .ex).setSlot .mem1 (some f))
  | .mem1 => .next ((s.emit f.label .mem1).setSlot .mem2 (some f))
  | .mem2 => (own.mem2 f s).andThen fun t => t.ifRunning fun t => .next ((t.emit f.label .mem2).setSlot .mem3 (some f))
  | .mem3 => .next ((s.emit f.label .mem3).setSlot .wb (some f))
  | .wb => .next (s.emit f.label .wb)

/-- The meaning of an instruction other than NOP at the stage `s.stage`: at IF1 it is the fetched instruction; at a later
stage it must be the occupant of the stage's slot. -/
def State.perform (s : State) (i : Instr) (own : OwnWork) : Out :=
  if s.stage = .if1 then .next (s.if1Work (some i))
  else
    match s.slots.get s.stage with
    | some f => if f.ins = i then s.flightWork own f else .fault .notInStage
    | none => .fault .notInStage

end Sys2Proof.Machine
end

