-- ==== Sys2Proof/Machine/Alu.lean ====
section
/-! DEFINITION. ADD, ADD_IMMEDIATE, SUB, SUB_IMMEDIATE (spec/43_alu.md). None writes a flag, none traps on overflow
(R183). -/

namespace Sys2Proof.Machine

/-- ALU_EX (R181): `x[rd] <- op(rsv, b)`, with b the second operand by the record's shape. -/
def aluAtEx (op : Word → Word → Word) (rd : Int) (f : InFlight) (s : State) : Out :=
  match regIndex? rd, f.rsv, secondOperand s.width f with
  | some k, some a, some b => .next (s.writeReg k (op a b))
  | _, _, _ => .fault .notFromId

/-- ADD rd, rs, rt (R184). -/
def execAdd (rd rs rt : Int) (s : State) : Out :=
  s.perform (.add rd rs rt) ⟨fun t => t, aluAtEx (wordAdd s.width) rd, noWork⟩

/-- ADD_IMMEDIATE rd, rs, imm (R185). -/
def execAddi (rd rs imm : Int) (s : State) : Out :=
  s.perform (.addi rd rs imm) ⟨fun t => t, aluAtEx (wordAdd s.width) rd, noWork⟩

/-- SUB rd, rs, rt (R186). -/
def execSub (rd rs rt : Int) (s : State) : Out :=
  s.perform (.sub rd rs rt) ⟨fun t => t, aluAtEx (wordSub s.width) rd, noWork⟩

/-- SUB_IMMEDIATE rd, rs, imm (R187). -/
def execSubi (rd rs imm : Int) (s : State) : Out :=
  s.perform (.subi rd rs imm) ⟨fun t => t, aluAtEx (wordSub s.width) rd, noWork⟩

end Sys2Proof.Machine
end

