-- ==== Sys2Proof/Machine/Flags.lean ====
section
/-! DEFINITION. Conditions. The engine has no status flags, no condition codes and no predicates, and no instruction sets
a flag as a side effect (spec/10_state.md rule R36; spec/43_alu.md rule R183). Its one condition is the test that
BRANCH_NE_ZERO makes on the value of a general register. -/

namespace Sys2Proof.Machine

/-- `rsv != 0`, on the whole Word: any non-zero value, negative ones included (R170). -/
def notZero (v : Word) : Bool := decide (v ≠ 0)

end Sys2Proof.Machine
end

