-- ==== Sys2Proof/Machine/Branch.lean ====
section
/-! DEFINITION. BRANCH_NE_ZERO (spec/42_branch.md). -/

namespace Sys2Proof.Machine

/-- BNEZ_EX (R170): when the tested value is not 0, the branch latch takes the target. The squash is the end of the
cycle's (R129). -/
def bnezAtEx (target : Int) (f : InFlight) (s : State) : Out :=
  match f.rsv with
  | some v => .next (if notZero v then s.takeBranch target else s)
  | none => .fault .notFromId

/-- BRANCH_NE_ZERO rs, target (R170). -/
def execBnez (rs target : Int) (s : State) : Out :=
  s.perform (.bnez rs target) ⟨fun t => t, bnezAtEx target, noWork⟩

end Sys2Proof.Machine
end

