-- ==== Sys2Proof/Machine/LoadStore.lean ====
section
/-! DEFINITION. LOAD and STORE (spec/41_load_store.md). -/

namespace Sys2Proof.Machine

/-- LOAD at MEM2 (R151): the address check, then `x[rd] <- memory[k]` and the release of rd in the same step. A bad
address is a fatal error that leaves register, memory and reservation as they are (R204). -/
def loadAtMem2 (rd offset : Int) (f : InFlight) (s : State) : Out :=
  match regIndex? rd, f.rsv with
  | some k, some base =>
    match cellAddress? (effectiveAddress s.width base offset) with
    | some a => .next ((s.writeReg k (s.memRead a)).setReserved k false)
    | none => .next (s.raiseFatal ⟨.memIndex, f.label, .address, effectiveAddress s.width base offset⟩)
  | _, _ => .fault .notFromId

/-- STORE at MEM2 (R156): the address check, then `memory[k] <- rtv`. A bad address is a fatal error that leaves memory
as it is (R204). -/
def storeAtMem2 (offset : Int) (f : InFlight) (s : State) : Out :=
  match f.rsv, f.rtv with
  | some base, some v =>
    match cellAddress? (effectiveAddress s.width base offset) with
    | some a => .next (s.memWrite a v)
    | none => .next (s.raiseFatal ⟨.memIndex, f.label, .address, effectiveAddress s.width base offset⟩)
  | _, _ => .fault .notFromId

/-- LOAD rd, offset(rs) (R151): it reserves rd in every cycle it occupies ID, before its own hazard test (R113).
DESIGN CHOICE, unsafe (notes/assumptions/18.md): a LOAD of its own base, rd = rs, reserves rd again in the very cycle in which an
older LOAD's release has cleared it, so that release does not free it, although R154 and R249 say that it does; the model
follows R110, R113, R115, D14 and 90_conflicts.md C3. -/
def execLoad (rd rs offset : Int) (s : State) : Out :=
  s.perform (.load rd rs offset) ⟨fun t => t.reserve rd, noWork, loadAtMem2 rd offset⟩

/-- STORE rt, offset(rs) (R156). -/
def execStore (rt rs offset : Int) (s : State) : Out :=
  s.perform (.store rt rs offset) ⟨fun t => t, noWork, storeAtMem2 offset⟩

end Sys2Proof.Machine
end

