-- ==== Sys2Proof/Machine/Nop.lean ====
section
/-! DEFINITION. NOP, the empty-slot sentinel (spec/43_alu.md rules R190 and R191). -/

namespace Sys2Proof.Machine

/-- NOP (R190): at IF1 it is fetched as EMPTY, and the fetch advances cursor and issue like any other; at a later stage it
is the EMPTY slot, which emits no event, reads and writes no register or memory and never stalls. -/
def execNop (s : State) : Out :=
  if s.stage = .if1 then .next s.emptyWork
  else
    match s.slots.get s.stage with
    | some _ => .fault .notInStage
    | none => .next s.emptyWork

end Sys2Proof.Machine
end

