-- ==== Sys2Proof/Machine/Dispatch.lean ====
section
/-! DEFINITION. One arm per instruction. `exec i s` is the work of the stage `s.stage` on the instruction i
(notes/assumptions/4.md). -/

namespace Sys2Proof.Machine

def exec (i : Instr) (s : State) : Host.Outcome State Fault Refusal :=
  match i with
  | .load rd rs offset => Sys2Proof.Machine.execLoad rd rs offset s
  | .store rt rs offset => Sys2Proof.Machine.execStore rt rs offset s
  | .bnez rs target => Sys2Proof.Machine.execBnez rs target s
  | .add rd rs rt => Sys2Proof.Machine.execAdd rd rs rt s
  | .addi rd rs imm => Sys2Proof.Machine.execAddi rd rs imm s
  | .sub rd rs rt => Sys2Proof.Machine.execSub rd rs rt s
  | .subi rd rs imm => Sys2Proof.Machine.execSubi rd rs imm s
  | .nop => Sys2Proof.Machine.execNop s

end Sys2Proof.Machine
end

