-- ==== Sys2Proof/Machine/Cycle.lean ====
section
/-! DEFINITION. One cycle of the engine and one iteration of the run loop (spec/40_pipeline_engine.md rules R100, R101 and
R128 to R140). -/

namespace Sys2Proof.Machine

/-- The instruction a slot holds: EMPTY is the NOP sentinel (R28). -/
def occupant (v : Option InFlight) : Instr :=
  match v with
  | some f => f.ins
  | none => .nop

/-- One stage of the cycle, from WB to IF2: its slot's instruction does its work there. It does not run after a fatal
error (R201). -/
def State.runStage (s : State) (st : Stage) : Out :=
  s.ifRunning fun s => exec (occupant (s.slots.get st)) (s.atStage st)

/-- `store[cursor]` (R124). -/
def State.fetched (s : State) : Record := storeEntry s.store s.cursor.toNat

/-- IF1 with its fetch: the record at the cursor is decoded, and the instruction does its work at IF1 (R124). -/
def State.runFetch (s : State) : Out :=
  s.ifRunning fun s =>
    match decode s.fetched with
    | .ok i => exec i (s.atStage .if1)
    | .error e => .refused (.illFormedRecord e)

/-- The branch squash (R129): it does not touch slot 0, the issue counter, the stall latch or the reservations. -/
def State.squash (s : State) : State :=
  if s.brTaken then
    { s with
      slots := { s.slots with slot1 := none, slot2 := none, slot3 := none }
      cursor := s.brTarget, brTaken := false, brTarget := 0 }
  else s

/-- `current_stall <- pending_stall` (R130). -/
def State.latchStall (s : State) : State := { s with currentStall := s.pendingStall }

/-- The cycle record and the cycle counter (R131). -/
def State.record (s : State) : State :=
  { s with trace := s.trace ++ [⟨s.cycle, s.events⟩], cycle := s.cycle + 1 }

/-- The termination test after a completed cycle (R132): all eight slots, slot 0 included, are EMPTY. -/
def State.drainTest (s : State) : State :=
  if s.slots = Slots.empty then { s with status := .done .drained } else s

/-- The end-of-cycle steps in their order, then the termination test (R128, R132). A cycle that a fatal error stops runs
none of them (R201). -/
def State.endCycle (s : State) : Out :=
  s.ifRunning fun s => .next s.squash.latchStall.record.drainTest

/-- The stages WB to IF2 of a cycle, oldest instruction first (R100). A fatal error leaves the stages after it out and no
cycle follows (R201), so an older LOAD or STORE that has not been at MEM2 by then has no effect
(notes/assumptions/19.md).
DESIGN CHOICE, unsafe (notes/assumptions/20.md): with an ALU instruction directly behind a LOAD, the ALU write is at EX in the
cycle before the LOAD's write at MEM2, as this order of stages, R244 and vector V-waw-adjacent of 95_test_vectors.md have
it, although R189 says that the LOAD writes two cycles later. -/
def State.backStages (s : State) : Out :=
  (State.runStage { s with events := [] } .wb).andThen fun s =>
  (s.runStage .mem3).andThen fun s =>
  (s.runStage .mem2).andThen fun s =>
  (s.runStage .mem1).andThen fun s =>
  (s.runStage .ex).andThen fun s =>
  (s.runStage .id).andThen fun s =>
  s.runStage .if2

/-- One cycle (R100): the stages in reverse pipeline order, then the end-of-cycle steps. -/
def State.runCycle (s : State) : Out :=
  s.backStages.andThen fun s => s.runFetch.andThen State.endCycle

/-- One iteration of the run loop (R101). A Running engine runs a cycle while the cursor is in the store, and is Done
when it is not (R140). Done is never left and no cycle executes in it (R35): the state stays as it is. Fatal is never
left either, and there the machine stops with the failure info (R44; notes/assumptions/6.md). -/
def State.iterate (s : State) : Out :=
  match s.status with
  | .running =>
    if s.cursorInStore then s.runCycle
    else .next { s with status := .done .cursorOut }
  | .done _ => .next s
  | .fatal info => .fault (.fatalError info)

end Sys2Proof.Machine
end

