-- ==== Sys2Proof/Machine/Launch.lean ====
section
/-! DEFINITION. The launch (spec/10_state.md rules R40 and R41; spec/70_reset_and_hazards.md rules R230 to R233): how the
host's three inputs make the state a run starts from, and how a word of the opcode table is placed where the next fetch
reads it. -/

namespace Sys2Proof.Machine

/-- The register file of a launch: the value given for an index, else 0 (R23). -/
def regsOf (entries : List (Int × Int)) : Vector Word Config.numRegs :=
  Vector.ofFn fun k => (entries.lookup (k.val : Int)).getD 0

/-- The data memory of a launch: the value given for a byte address, else 0 (R39). -/
def memOf : List (Int × Int) → Memory
  | [] => []
  | (a, v) :: rest => Memory.write (memOf rest) a.toNat v

/-- The state after the reset that starts a run with these launch inputs (R230). -/
def State.ofLaunch (l : Launch) : State :=
  { State.reset with
    width := l.width, store := l.program, regs := regsOf l.registers, mem := memOf l.memory }

/-- The launch: a well-formed one gives the state before cycle 1; any other is refused and does not run (R233). -/
def launch (l : Launch) : Out :=
  if l.wf then .next (State.ofLaunch l) else .refused .illFormedLaunch

/-- The record of a word of the opcode table in the store entry at the cursor, with the engine Running; a cursor outside
the store is first put at entry 0, and a word that holds no code changes nothing (notes/assumptions/5.md). -/
def State.placeWord (s : State) (nbits w : Nat) : State :=
  match tableRecord nbits w with
  | none => s
  | some r =>
    let k := if s.cursorInStore then s.cursor.toNat else 0
    { s with store := placeEntry s.store k r, cursor := k, status := .running }

end Sys2Proof.Machine
end

