-- ==== Sys2Proof/Machine/Output.lean ====
section
/-! DEFINITION. What the host reads after a run (spec/10_state.md rules R42 to R44). -/

namespace Sys2Proof.Machine

/-- The final report (R43): (index, value) of every non-zero register and (byte address, value) of every non-zero cell,
both in ascending order. -/
structure Report where
  registers : List (Nat × Word)
  memory : List (Nat × Word)
  deriving DecidableEq, Repr

/-- The non-zero registers in ascending index order (R43). -/
def State.nonZeroRegs (s : State) : List (Nat × Word) :=
  (List.range Config.numRegs).filterMap fun k =>
    if s.regs.getD k 0 = 0 then none else some (k, s.regs.getD k 0)

/-- The non-zero memory cells in ascending address order (R43). -/
def State.nonZeroCells (s : State) : List (Nat × Word) :=
  (List.range Config.memWords).filterMap fun k =>
    if s.memRead (Config.wordBytes * k) = 0 then none
    else some (Config.wordBytes * k, s.memRead (Config.wordBytes * k))

/-- The final report, available only when the run is Done (R43, R44). -/
def State.report? (s : State) : Option Report :=
  match s.status with
  | .done _ => some ⟨s.nonZeroRegs, s.nonZeroCells⟩
  | .running => none
  | .fatal _ => none

/-- The failure info, when the run is Fatal (R44). -/
def State.failure? (s : State) : Option FatalInfo :=
  match s.status with
  | .fatal info => some info
  | .running => none
  | .done _ => none

end Sys2Proof.Machine
end

