-- ==== Sys2Proof/Machine/Step.lean ====
section
/-! DEFINITION. The step of the machine: one iteration of the run loop (spec/00_scope.md rule R14, R101). -/

namespace Sys2Proof.Machine

/-- One step: one iteration of the run loop (R14, R101). -/
def step (s : State) : Host.Outcome State Fault Refusal := s.iterate

/-- The state whose next step fetches the instruction of a word of spec/opcode_table.json. The engine has no way to load
its own program: the host loads it at launch (R17, R40), and this stands for that load (notes/assumptions/5.md). -/
def State.withFetchWord (s : State) (nbits w : Nat) : State := s.placeWord nbits w

end Sys2Proof.Machine
end

