-- ==== Sys2Proof/Safety.lean ====
section
/-! DEFINITION. How a run ends (spec/40_pipeline_engine.md rule R142) and what holds of the engine between cycles, as
decidable checks that the statements use. Nothing here is a part of the machine: `step` reads none of it. -/

namespace Sys2Proof.Machine

/-- The run has ended well: Done(Drained) (R142). Done(CursorOut) may lack effects of instructions still in flight. -/
def State.endedWell (s : State) : Bool := s.status == .done .drained

/-- The run was stopped by a fatal error (R201). -/
def State.isFatal (s : State) : Bool := s.failure?.isSome

/-- v is a W-bit value: wrapping it changes nothing (R9). -/
def wordOk (W : Nat) (v : Word) : Bool := decide (Word.Canonical W v)

/-- An in-flight instruction that has not left ID: no sentinel, and no operand value yet (R28, R29). -/
def InFlight.unresolved (f : InFlight) : Bool :=
  f.ins != .nop && f.rsv.isNone && f.rtv.isNone

/-- An in-flight instruction that has left ID: no sentinel, every used register field in 0 to 31 (R112), the value of rs
read, the value of rt read exactly when rt is a register (R29, R118), both W-bit values. -/
def InFlight.resolved (W : Nat) (f : InFlight) : Bool :=
  f.ins != .nop && (firstBadField f.ins).isNone
    && f.rsv.isSome && (f.rtv.isSome == (rtField f.ins).isSome)
    && f.rsv.all (wordOk W) && f.rtv.all (wordOk W)

/-- Every in-flight instruction up to ID is unresolved, every one after ID is resolved (R29). -/
def State.pipelineOk (s : State) : Bool :=
  s.slots.slot0.all InFlight.unresolved && s.slots.slot1.all InFlight.unresolved
    && s.slots.slot2.all InFlight.unresolved
    && s.slots.slot3.all (InFlight.resolved s.width) && s.slots.slot4.all (InFlight.resolved s.width)
    && s.slots.slot5.all (InFlight.resolved s.width) && s.slots.slot6.all (InFlight.resolved s.width)
    && s.slots.slot7.all (InFlight.resolved s.width)

/-- Every register and every listed cell holds a W-bit value (R20, R50). -/
def State.valuesOk (s : State) : Bool :=
  decide (∀ k : Fin Config.numRegs, wordOk s.width s.regs[k] = true) && s.mem.all fun e => wordOk s.width e.2

/-- The store is a well-formed instruction list (R41, R78 points 1 to 4). -/
def State.storeOk (s : State) : Bool :=
  decide (s.store.length ≤ Config.storeCap) && s.store.all (Record.wf s.width)

/-- A branch in flight has its target in 0 to 127 (R78 point 4, R170). -/
def InFlight.targetOk (f : InFlight) : Bool :=
  match f.ins with
  | .bnez _ target => isTarget target
  | _ => true

/-- Every branch in flight has its target in 0 to 127. -/
def State.targetsOk (s : State) : Bool :=
  s.slots.slot0.all InFlight.targetOk && s.slots.slot1.all InFlight.targetOk && s.slots.slot2.all InFlight.targetOk
    && s.slots.slot3.all InFlight.targetOk

/-- Between cycles the branch latch is clear (R33, R129) and the two stall bits agree (R130). -/
def State.latchesOk (s : State) : Bool :=
  !s.brTaken && s.brTarget == 0 && (s.currentStall == s.pendingStall)

/-- The cursor is in 0 to 128 (R25). -/
def State.cursorOk (s : State) : Bool :=
  decide (0 ≤ s.cursor) && decide (s.cursor ≤ Config.storeCap)

/-- The labels of slots 7 to 1, the oldest instruction first. -/
def State.labels (s : State) : List Nat :=
  [s.slots.slot7, s.slots.slot6, s.slots.slot5, s.slots.slot4, s.slots.slot3, s.slots.slot2, s.slots.slot1].filterMap
    fun v => v.map InFlight.label

/-- Program order in the pipeline: from the oldest slot to slot 1 the labels rise, and the next issue number is above
them all, so that no instruction has passed another (R27, R58). -/
def State.inOrder (s : State) : Bool :=
  decide (s.labels.Pairwise (· < ·)) && s.labels.all fun n => decide (n < s.issue)

/-- What holds of the engine between cycles. A fatal error stops a cycle in its middle (R201), so after one only the
first line is claimed. -/
def State.inv (s : State) : Bool :=
  Memory.wf s.mem && s.storeOk && s.valuesOk && s.pipelineOk && s.targetsOk
    && (s.isFatal || (s.latchesOk && s.cursorOk && s.inOrder))

/-- k steps, stopping at the first fault or refusal. -/
def steps (k : Nat) (s : State) : Out := Host.Core.run Sys2Proof.core k s

end Sys2Proof.Machine
end

