-- ==== Sys2Proof/Certificates/Slice0/Obligations.lean ====
section
/-! DEFINITION. The statements for the provers. Each docstring says which sentence of spec/ it formalises; a statement that
rests on a decision of the spec's own (92_eei_decisions.md) or on a choice of this model says so. -/

namespace Sys2Proof.Machine

/-! ### The synchronous reading of a cycle (R102)

All that one cycle computes, each part from the state at the start of the cycle: what the cycle of R100 must come to,
written without its order of stages. -/

/-- The byte address of the access of a LOAD or STORE (R150). -/
def accessAddress (s : State) (f : InFlight) : Int :=
  effectiveAddress s.width (f.rsv.getD 0) (offsetField f.ins)

/-- LOAD or STORE: the instructions that access memory (R55). -/
def isAccess : Instr → Bool
  | .load _ _ _ => true
  | .store _ _ _ => true
  | _ => false

/-- The instruction is a LOAD to register k. -/
def loadsTo (i : Instr) (k : Fin Config.numRegs) : Bool :=
  match i with
  | .load rd _ _ => regIndex? rd == some k
  | _ => false

/-- The instruction is an ALU instruction with destination register k. -/
def computesTo (i : Instr) (k : Fin Config.numRegs) : Bool :=
  match i with
  | .add rd _ _ => regIndex? rd == some k
  | .addi rd _ _ => regIndex? rd == some k
  | .sub rd _ _ => regIndex? rd == some k
  | .subi rd _ _ => regIndex? rd == some k
  | _ => false

/-- The fatal error the cycle raises at MEM2, if it raises one (R204). -/
def mem2Fatal? (s : State) : Option FatalInfo :=
  match s.slots.slot5 with
  | some f =>
    if isAccess f.ins && (cellAddress? (accessAddress s f)).isNone then
      some ⟨.memIndex, f.label, .address, accessAddress s f⟩
    else none
  | none => none

/-- The fatal error the cycle raises at ID, if it gets there (R202). -/
def idFatal? (s : State) : Option FatalInfo :=
  match s.slots.slot2 with
  | some g => (firstBadField g.ins).map fun e => ⟨.regIndex, g.label, e.1, e.2⟩
  | none => none

/-- The fatal error that stops the cycle: MEM2 runs before ID (R205). -/
def cycleFatal? (s : State) : Option FatalInfo :=
  match mem2Fatal? s with
  | some info => some info
  | none => idFatal? s

/-- The data memory after the cycle: the STORE at MEM2 has written (R156). -/
def memAfter (s : State) : Memory :=
  match s.slots.slot5 with
  | some f =>
    match f.ins with
    | .store _ _ _ => Memory.write s.mem (accessAddress s f).toNat (f.rtv.getD 0)
    | _ => s.mem
  | none => s.mem

/-- The result an ALU instruction at EX computes (R181). -/
def aluResult (s : State) (f : InFlight) : Word :=
  match f.ins with
  | .sub _ _ _ => wordSub s.width (f.rsv.getD 0) ((secondOperand s.width f).getD 0)
  | .subi _ _ _ => wordSub s.width (f.rsv.getD 0) ((secondOperand s.width f).getD 0)
  | _ => wordAdd s.width (f.rsv.getD 0) ((secondOperand s.width f).getD 0)

/-- Register k after the cycle: the ALU instruction at EX has written last (R189), before it the LOAD at MEM2. -/
def regAfter (s : State) (k : Fin Config.numRegs) : Word :=
  match s.slots.slot3, s.slots.slot5 with
  | some f, some g =>
    if computesTo f.ins k then aluResult s f
    else if loadsTo g.ins k then s.memRead (accessAddress s g).toNat else s.regs[k]
  | some f, none => if computesTo f.ins k then aluResult s f else s.regs[k]
  | none, some g => if loadsTo g.ins k then s.memRead (accessAddress s g).toNat else s.regs[k]
  | none, none => s.regs[k]

/-- The reservation bit of register k after the cycle: the LOAD at ID sets it after the LOAD at MEM2 has cleared it
(R103, R113, R151). -/
def reservedAfter (s : State) (k : Fin Config.numRegs) : Bool :=
  s.slots.slot2.any (fun g => loadsTo g.ins k)
    || (s.reserved[k] && !s.slots.slot5.any fun f => loadsTo f.ins k)

/-- The instruction at ID stalls: one of its sources is reserved (R115). -/
def stallsAtId (s : State) : Bool :=
  s.slots.slot2.any fun g => (sources g.ins).any fun r =>
    match regIndex? r with
    | some k => reservedAfter s k
    | none => false

/-- The target of the branch taken at EX in the cycle, if one is (R170). -/
def takenTarget? (s : State) : Option Int :=
  match s.slots.slot3 with
  | some f =>
    match f.ins with
    | .bnez _ target => if f.rsv.getD 0 ≠ 0 then some target else none
    | _ => none
  | none => none

/-- What IF1 loads into slot 0 (R124). -/
def fetchedFlight (s : State) : Option InFlight :=
  match decode (storeEntry s.store s.cursor.toNat) with
  | .ok i => if i = .nop then none else some ⟨i, s.issue, none, none⟩
  | .error _ => none

/-- The registers after the cycle, which are also those that ID reads (R103). -/
def regsAfter (s : State) : Vector Word Config.numRegs := Vector.ofFn (regAfter s)

/-- The events of the cycle in emission order: ID, IF2 and IF1 are tagged `stall` exactly when `current_stall` is true
(R104, R121). -/
def cycleEvents (s : State) : List Event :=
  let tell (v : Option InFlight) (g : Tag) : List Event := v.toList.map fun f => ⟨f.label, g⟩
  let front (g : Tag) : Tag := if s.currentStall then .stall else g
  tell s.slots.slot7 .wb ++ tell s.slots.slot6 .mem3 ++ tell s.slots.slot5 .mem2 ++ tell s.slots.slot4 .mem1
    ++ tell s.slots.slot3 .ex ++ tell s.slots.slot2 (front .id) ++ tell s.slots.slot1 (front .if2)
    ++ tell (fetchedFlight s) (front .if1)

/-- The slots after the cycle (R30, R122 to R129). -/
def slotsAfter (s : State) : Slots where
  slot0 := fetchedFlight s
  slot1 := if (takenTarget? s).isSome then none else if stallsAtId s then s.slots.slot1 else fetchedFlight s
  slot2 := if (takenTarget? s).isSome then none else if stallsAtId s then s.slots.slot2 else s.slots.slot1
  slot3 :=
    if (takenTarget? s).isSome || stallsAtId s then none
    else s.slots.slot2.map (resolve { s with regs := regsAfter s })
  slot4 := s.slots.slot3
  slot5 := s.slots.slot4
  slot6 := s.slots.slot5
  slot7 := s.slots.slot6

/-- The state after a cycle that no fatal error stops, every latch loaded at once (R102). -/
def syncCycle (s : State) : State :=
  { s with
    regs := regsAfter s
    mem := memAfter s
    reserved := Vector.ofFn (reservedAfter s)
    slots := slotsAfter s
    cursor := match takenTarget? s with
      | some target => target
      | none => if stallsAtId s then s.cursor else s.cursor + 1
    issue := if stallsAtId s then s.issue else s.issue + 1
    currentStall := stallsAtId s
    pendingStall := stallsAtId s
    cycle := s.cycle + 1
    events := cycleEvents s
    trace := s.trace ++ [⟨s.cycle, cycleEvents s⟩]
    status := if slotsAfter s = Slots.empty then .done .drained else .running
    stage := .if1 }

/-! ### A state without its numbering (R212) -/

/-- The failure info without the label. -/
def FatalInfo.unlabelled (info : FatalInfo) : FatalInfo := { info with label := 0 }

/-- The in-flight instruction without its label. -/
def InFlight.unlabelled (f : InFlight) : InFlight := { f with label := 0 }

/-- The status without the label of a failure. -/
def Status.unlabelled : Status → Status
  | .fatal info => .fatal info.unlabelled
  | .running => .running
  | .done why => .done why

/-- The slots without labels. -/
def Slots.unlabelled (sl : Slots) : Slots where
  slot0 := sl.slot0.map InFlight.unlabelled
  slot1 := sl.slot1.map InFlight.unlabelled
  slot2 := sl.slot2.map InFlight.unlabelled
  slot3 := sl.slot3.map InFlight.unlabelled
  slot4 := sl.slot4.map InFlight.unlabelled
  slot5 := sl.slot5.map InFlight.unlabelled
  slot6 := sl.slot6.map InFlight.unlabelled
  slot7 := sl.slot7.map InFlight.unlabelled

/-- The state without the two counters, the labels they give, and the trace, where alone they are seen (R212). -/
def State.unlabelled (s : State) : State :=
  { s with slots := s.slots.unlabelled, issue := 0, cycle := 0, status := s.status.unlabelled, events := [], trace := [] }

/-- An outcome without its numbering. -/
def Out.unlabelled (o : Out) : Out :=
  match o with
  | .next s => .next s.unlabelled
  | .fault (.fatalError info) => .fault (.fatalError info.unlabelled)
  | .fault .notInStage => .fault .notInStage
  | .fault .notFromId => .fault .notFromId
  | .refused r => .refused r

/-! ### Launches and reservations, written out from the rules -/

/-- n is outside the signed W-bit range [-2^(W-1), 2^(W-1)) (R78 points 3, 5 and 6). -/
def outsideSigned (W : Nat) (n : Int) : Prop := n < -(2 : Int) ^ (W - 1) ∨ (2 : Int) ^ (W - 1) ≤ n

/-- The record breaks point 2, 3 or 4 of R78: rt is not present exactly for STORE, ADD and SUB, a target is outside 0 to
127, or a displacement or an immediate is outside the signed range. The codes are those of R72. -/
def breaksR78 (W : Nat) (r : Record) : Prop :=
  (r.rt = none ∧ (r.code = 1 ∨ r.code = 3 ∨ r.code = 5)) ∨
  (r.rt ≠ none ∧ (r.code = 0 ∨ r.code = 2 ∨ r.code = 4 ∨ r.code = 6 ∨ r.code = 7)) ∨
  (r.code = 2 ∧ ¬ (0 ≤ r.offset ∧ r.offset ≤ 127)) ∨
  ((r.code = 0 ∨ r.code = 1 ∨ r.code = 4 ∨ r.code = 6) ∧ outsideSigned W r.offset)

/-- The register with index i is reserved (R31). -/
def registerReserved (s : State) (i : Int) : Prop :=
  ∃ k : Fin Config.numRegs, i = (k.val : Int) ∧ s.reserved[k] = true

/-! ### Frames -/

/-- The slots a stage writes: IF1 its own and the next, WB none, any other stage the next (R105 to R126). -/
def writesSlot (work : Stage) (slot : Stage) : Bool :=
  match work with
  | .if1 => slot == .if1 || slot == .if2
  | .if2 => slot == .id
  | .id => slot == .ex
  | .ex => slot == .mem1
  | .mem1 => slot == .mem2
  | .mem2 => slot == .mem3
  | .mem3 => slot == .wb
  | .wb => false

/-- What no instruction changes: at any stage the parameters, the counters of the end of the cycle, the stall decision
of the cycle before, the stage at work and every slot the stage does not write; the cursor and the issue counter except
at IF1, the stall decision except at ID, the status except at ID and MEM2 (R15, R24, R27, R32, R61, R128, R201). -/
def SameAmbient (s t : State) : Prop :=
  t.width = s.width ∧ t.store = s.store ∧ t.currentStall = s.currentStall ∧ t.cycle = s.cycle ∧ t.trace = s.trace ∧
    t.stage = s.stage ∧
    (∀ st, writesSlot s.stage st = false → t.slots.get st = s.slots.get st) ∧
    (s.stage ≠ .if1 → t.cursor = s.cursor ∧ t.issue = s.issue) ∧
    (s.stage ≠ .id → t.pendingStall = s.pendingStall) ∧
    (s.stage ≠ .id → s.stage ≠ .mem2 → t.status = s.status)

end Sys2Proof.Machine

open Sys2Proof Sys2Proof.Machine

/-! ### Records, decoding, launch -/

/-- R72 and R73: a record of each of the eight codes, its used fields at distinct values, decodes to the instruction of
that row with the fields in their places. -/
def Obligations.CodesDecodeToTheirRows : Prop :=
  decode ⟨0b000, 1, 2, none, 16⟩ = .ok (.load 1 2 16) ∧
  decode ⟨0b001, 99, 2, some 3, -8⟩ = .ok (.store 3 2 (-8)) ∧
  decode ⟨0b010, 99, 4, none, 127⟩ = .ok (.bnez 4 127) ∧
  decode ⟨0b011, 1, 2, some 3, 99⟩ = .ok (.add 1 2 3) ∧
  decode ⟨0b100, 1, 2, none, -5⟩ = .ok (.addi 1 2 (-5)) ∧
  decode ⟨0b101, 1, 2, some 3, 99⟩ = .ok (.sub 1 2 3) ∧
  decode ⟨0b110, 1, 2, none, 5⟩ = .ok (.subi 1 2 5) ∧
  decode ⟨0b111, 99, 99, none, 99⟩ = .ok .nop

/-- R72, R73: decoding the record of an instruction gives the instruction back, whatever its operands. -/
def Obligations.DecodeOfEncodeIsTheInstruction : Prop :=
  ∀ i : Instr, decode (encode i) = .ok i

/-- R78 points 2 to 4: a record is well formed exactly when it decodes to an instruction whose operands are in range,
and the record of an instruction is well formed exactly when the instruction is. -/
def Obligations.WellFormedRecordsAreTheDecodable : Prop :=
  (∀ (W : Nat) (r : Record), r.wf W = true ↔ ∃ i, decode r = .ok i ∧ i.wf W = true) ∧
  ∀ (W : Nat) (i : Instr), (encode i).wf W = i.wf W

/-- R74: "An unused field's content is never read." A record that decodes still decodes to the same instruction when
every field its format does not use is overwritten. -/
def Obligations.UnusedFieldsAreNeverRead : Prop :=
  ∀ (r : Record) (i : Instr) (x y z : Int), decode r = .ok i →
    decode { r with
      rd := if (rdField i).isSome then r.rd else x
      rs := if (rsField i).isSome then r.rs else y
      offset := if isAccess i || r.code == 2 || r.code == 4 || r.code == 6 then r.offset else z } = .ok i

/-- R23 and R39: registers and memory start at the values the launch gives, and at 0 where it gives none. -/
def Obligations.LaunchLoadsRegistersAndMemory : Prop :=
  ∀ l : Launch, l.wf = true → ∃ s, launch l = .next s ∧
    (∀ k : Fin Config.numRegs, s.regs[k] = (l.registers.lookup (k.val : Int)).getD 0) ∧
    ∀ k : Nat, k < Config.memWords →
      s.memRead (Config.wordBytes * k) = (l.memory.lookup ((Config.wordBytes * k : Nat) : Int)).getD 0

/-- R41: the launch list stands at indices 0 to N-1 of the store and the NOP sentinel from N on; the rest of the state
is that of reset (R230: the values of slots, latches, cursor and issue counter are the spec's own decisions D4, D5,
D22). -/
def Obligations.LaunchLoadsTheProgram : Prop :=
  ∀ l : Launch, l.wf = true → ∃ s, launch l = .next s ∧
    (∀ k (h : k < l.program.length), storeEntry s.store k = l.program[k]) ∧
    (∀ k, l.program.length ≤ k → storeEntry s.store k = nopRecord) ∧
    s = { State.reset with width := l.width, store := s.store, regs := s.regs, mem := s.mem }

/-- R78 points 1 to 6, R233 (the spec's own decisions D24, D27): the launches that are refused are those with more than 128
instructions, a record that breaks point 2, 3 or 4, a register key outside 0 to 31, a memory key that is no multiple of 8 in
0 to 1016, or an initial value outside the signed range. That a launch with two values for one key, or with width 0, is
refused too is no point of R78 but assumption 9 (DEDUCED from R40 and D1). -/
def Obligations.IllFormedLaunchIsRefused : Prop :=
  ∀ l : Launch,
    launch l = .refused .illFormedLaunch ↔
      128 < l.program.length ∨ (∃ r ∈ l.program, breaksR78 l.width r) ∨
      (∃ e ∈ l.registers, ¬ (0 ≤ e.1 ∧ e.1 ≤ 31) ∨ outsideSigned l.width e.2) ∨
      (∃ e ∈ l.memory, ¬ (0 ≤ e.1 ∧ e.1 ≤ 1016 ∧ e.1 % 8 = 0) ∨ outsideSigned l.width e.2) ∨
      ¬ (l.registers.map Prod.fst).Nodup ∨ ¬ (l.memory.map Prod.fst).Nodup ∨ l.width = 0

/-- R230 for the launch that gives nothing: that `State.reset` is the reset of that launch, and of no other, is this model's
choice (assumption 11). Every register and cell is 0 and every store entry the sentinel, because no launch value and no
instruction is given; the pipeline is EMPTY, nothing reserved, the latches clear, the cycle number 1 and the run Running
with an empty trace. The values of cursor, issue counter, slots, table and latches are the spec's own decisions D4, D5 and
D22. -/
def Obligations.ResetLeavesTheEngineIdle : Prop :=
  (∀ k : Fin Config.numRegs, State.reset.regs[k] = 0 ∧ State.reset.reserved[k] = false) ∧
  (∀ a, State.reset.memRead a = 0) ∧ (∀ k, storeEntry State.reset.store k = nopRecord) ∧
  State.reset.slots = Slots.empty ∧ State.reset.currentStall = false ∧ State.reset.pendingStall = false ∧
  State.reset.brTaken = false ∧ State.reset.brTarget = 0 ∧ State.reset.cursor = 0 ∧ State.reset.issue = 1 ∧
  State.reset.cycle = 1 ∧ State.reset.status = .running ∧ State.reset.trace = []

/-! ### Words and addresses -/

/-- R182 (the spec's own decisions D1, D2): the sum and difference of two W-bit values, by their signed readings, are
those of W-bit two's-complement bit vectors. -/
def Obligations.WordArithmeticIsTwosComplement : Prop :=
  ∀ (W : Nat) (a b : BitVec W),
    wordAdd W a.toInt b.toInt = (a + b).toInt ∧ wordSub W a.toInt b.toInt = (a - b).toInt

/-- R9: the W-bit values, by their signed readings, are the integers in [-2^(W-1), 2^(W-1)), and `word(n)` is the one of
them that is congruent to n modulo 2^W. -/
def Obligations.WordsAreTheSignedRange : Prop :=
  ∀ (W : Nat), 0 < W →
    (∀ v : Int, Word.Canonical W v ↔ inSignedRange W v = true) ∧
    ∀ n : Int, inSignedRange W (Word.ofInt W n) = true ∧ (Word.ofInt W n - n) % (2 : Int) ^ W = 0

/-- R150, R152 (the spec's own decision D2): the address sum wraps modulo 2^W before it is checked; the rule's two
examples at W = 32. -/
def Obligations.AddressSumWraps : Prop :=
  (∀ (W : Nat) (base offset : Int), effectiveAddress W base offset = Word.ofInt W (base + offset)) ∧
  cellAddress? (effectiveAddress 32 (-2147483648) (-2147483648)) = some 0 ∧
  effectiveAddress 32 2147483647 1 = -2147483648 ∧ cellAddress? (-2147483648) = none

/-- R51 (the spec's own decision D17): the valid byte addresses are 8k for a cell index k in 0 to 127, and no other
integer. -/
def Obligations.ValidAddressesAreTheCells : Prop :=
  ∀ (a : Int) (n : Nat),
    cellAddress? a = some n ↔ ∃ k, k < Config.memWords ∧ n = Config.wordBytes * k ∧ a = ((Config.wordBytes * k : Nat) : Int)

/-! ### Each instruction at the stage of its effect: it completes, and with what

`exec i s` is the work of the stage `s.stage` on the slot's occupant i (assumption 4, the model's choice). Sums wrap by
the spec's own decision D2, an ALU instruction writes at EX by its decision D8, and a valid address is what its decision
D17 says. -/

/-- R184 at EX (D2, D8): ADD writes the wrapped sum of the values read at ID, emits EX and moves to slot 4; nothing else
changes. -/
def Obligations.AddWritesTheSumAtEx : Prop :=
  ∀ (s : State) (f : InFlight) (rd rs rt : Int) (k : Fin Config.numRegs) (a b : Word),
    s.stage = .ex → s.status = .running → s.slots.slot3 = some f → f.ins = .add rd rs rt →
    regIndex? rd = some k → f.rsv = some a → f.rtv = some b →
    exec (.add rd rs rt) s =
      .next { s with
        regs := s.regs.set k (Word.ofInt s.width (a + b))
        events := s.events ++ [⟨f.label, .ex⟩]
        slots := { s.slots with slot4 := some f } }

/-- R185 at EX (D2, D8): ADD_IMMEDIATE writes the wrapped sum of the value read at ID and the immediate. -/
def Obligations.AddiWritesTheSumAtEx : Prop :=
  ∀ (s : State) (f : InFlight) (rd rs imm : Int) (k : Fin Config.numRegs) (a : Word),
    s.stage = .ex → s.status = .running → s.slots.slot3 = some f → f.ins = .addi rd rs imm →
    regIndex? rd = some k → f.rsv = some a →
    exec (.addi rd rs imm) s =
      .next { s with
        regs := s.regs.set k (Word.ofInt s.width (a + Word.ofInt s.width imm))
        events := s.events ++ [⟨f.label, .ex⟩]
        slots := { s.slots with slot4 := some f } }

/-- R186 at EX (D2, D8): SUB writes the wrapped difference, rs minus rt. -/
def Obligations.SubWritesTheDifferenceAtEx : Prop :=
  ∀ (s : State) (f : InFlight) (rd rs rt : Int) (k : Fin Config.numRegs) (a b : Word),
    s.stage = .ex → s.status = .running → s.slots.slot3 = some f → f.ins = .sub rd rs rt →
    regIndex? rd = some k → f.rsv = some a → f.rtv = some b →
    exec (.sub rd rs rt) s =
      .next { s with
        regs := s.regs.set k (Word.ofInt s.width (a - b))
        events := s.events ++ [⟨f.label, .ex⟩]
        slots := { s.slots with slot4 := some f } }

/-- R187 at EX (D2, D8): SUB_IMMEDIATE writes the wrapped difference of the value read at ID and the immediate. -/
def Obligations.SubiWritesTheDifferenceAtEx : Prop :=
  ∀ (s : State) (f : InFlight) (rd rs imm : Int) (k : Fin Config.numRegs) (a : Word),
    s.stage = .ex → s.status = .running → s.slots.slot3 = some f → f.ins = .subi rd rs imm →
    regIndex? rd = some k → f.rsv = some a →
    exec (.subi rd rs imm) s =
      .next { s with
        regs := s.regs.set k (Word.ofInt s.width (a - Word.ofInt s.width imm))
        events := s.events ++ [⟨f.label, .ex⟩]
        slots := { s.slots with slot4 := some f } }

/-- R151 at MEM2 (D2, D17): LOAD with a valid address writes the cell to its destination, releases it, emits MEM2 and
moves to slot 6; nothing else changes. -/
def Obligations.LoadReadsTheCellAtMem2 : Prop :=
  ∀ (s : State) (f : InFlight) (rd rs offset : Int) (k : Fin Config.numRegs) (base : Word) (a : Nat),
    s.stage = .mem2 → s.status = .running → s.slots.slot5 = some f → f.ins = .load rd rs offset →
    regIndex? rd = some k → f.rsv = some base → cellAddress? (effectiveAddress s.width base offset) = some a →
    exec (.load rd rs offset) s =
      .next { s with
        regs := s.regs.set k (s.memRead a)
        reserved := s.reserved.set k false
        events := s.events ++ [⟨f.label, .mem2⟩]
        slots := { s.slots with slot6 := some f } }

/-- R156 at MEM2 (D2, D17): STORE with a valid address writes the value rt had at ID to the cell, emits MEM2 and moves
to slot 6; nothing else changes: no other cell, no register, no reservation. -/
def Obligations.StoreWritesTheCellAtMem2 : Prop :=
  ∀ (s : State) (f : InFlight) (rt rs offset : Int) (base v : Word) (a : Nat),
    s.stage = .mem2 → s.status = .running → s.slots.slot5 = some f → f.ins = .store rt rs offset →
    f.rsv = some base → f.rtv = some v → cellAddress? (effectiveAddress s.width base offset) = some a →
    ∃ t, exec (.store rt rs offset) s = .next t ∧
      (Memory.wf s.mem = true → t.memRead a = v) ∧ (∀ b, b ≠ a → t.memRead b = s.memRead b) ∧
      t = { s with
        mem := t.mem
        events := s.events ++ [⟨f.label, .mem2⟩]
        slots := { s.slots with slot6 := some f } }

/-- R170 at EX: BRANCH_NE_ZERO loads the branch latch with its target when the value read at ID is not 0, and changes no
latch when it is 0; in both cases it emits EX and moves to slot 4. -/
def Obligations.BnezSetsTheBranchLatchAtEx : Prop :=
  ∀ (s : State) (f : InFlight) (rs target : Int) (v : Word),
    s.stage = .ex → s.status = .running → s.slots.slot3 = some f → f.ins = .bnez rs target → f.rsv = some v →
    exec (.bnez rs target) s =
      .next { s with
        brTaken := if v = 0 then s.brTaken else true
        brTarget := if v = 0 then s.brTarget else target
        events := s.events ++ [⟨f.label, .ex⟩]
        slots := { s.slots with slot4 := some f } }

/-- R190 with R124 and R126 (the spec's own decision D6): the fetch of NOP makes slot 0 EMPTY and emits nothing; when
`pending_stall` is false it advances into slot 1 and counts cursor and issue on, and when it is true nothing moves. -/
def Obligations.NopIsFetchedAsEmpty : Prop :=
  ∀ s : State, s.stage = .if1 →
    exec .nop s =
      .next (if s.pendingStall then { s with slots := { s.slots with slot0 := none } }
        else { s with
          slots := { s.slots with slot0 := none, slot1 := none }
          cursor := s.cursor + 1
          issue := s.issue + 1 })

/-- R124 to R127 (the spec's own decisions D6 and D12): the fetch of an instruction other than NOP loads slot 0 with
the current issue number as label, emits IF1 or `stall`, and advances exactly when `pending_stall` is false. -/
def Obligations.FetchLabelsAndAdvances : Prop :=
  ∀ (s : State) (i : Instr), s.stage = .if1 → i ≠ .nop →
    exec i s =
      .next { s with
        events := s.events ++ [⟨s.issue, if s.currentStall then .stall else .if1⟩]
        slots := { s.slots with
          slot0 := some ⟨i, s.issue, none, none⟩
          slot1 := if s.pendingStall then s.slots.slot1 else some ⟨i, s.issue, none, none⟩ }
        cursor := if s.pendingStall then s.cursor else s.cursor + 1
        issue := if s.pendingStall then s.issue else s.issue + 1 }

/-- R105, R106 and R108: WB only tells of an occupied slot 7, and MEM3 and MEM1 tell of their slot and copy it into the
next one, EMPTY or not. -/
def Obligations.PassThroughStages : Prop :=
  (∀ (s : State) (f : InFlight), f.ins ≠ .nop →
    (s.stage = .wb → s.slots.slot7 = some f →
      exec f.ins s = .next { s with events := s.events ++ [⟨f.label, .wb⟩] }) ∧
    (s.stage = .mem3 → s.slots.slot6 = some f →
      exec f.ins s = .next { s with
        events := s.events ++ [⟨f.label, .mem3⟩], slots := { s.slots with slot7 := some f } }) ∧
    (s.stage = .mem1 → s.slots.slot4 = some f →
      exec f.ins s = .next { s with
        events := s.events ++ [⟨f.label, .mem1⟩], slots := { s.slots with slot5 := some f } })) ∧
  ∀ s : State,
    (s.stage = .wb → s.slots.slot7 = none → exec .nop s = .next s) ∧
    (s.stage = .mem3 → s.slots.slot6 = none → exec .nop s = .next { s with slots := { s.slots with slot7 := none } }) ∧
    (s.stage = .mem1 → s.slots.slot4 = none → exec .nop s = .next { s with slots := { s.slots with slot5 := none } })

/-- R122 (the tag of a resolve cycle is the spec's own decision D12): IF2 tells of an occupied slot 1 and moves it into
slot 2 exactly when `pending_stall` is false. -/
def Obligations.If2MovesUnlessStalled : Prop :=
  ∀ (s : State) (i : Instr), s.stage = .if2 → i = occupant s.slots.slot1 →
    (∀ f, s.slots.slot1 = some f → f.ins ≠ .nop) →
    exec i s =
      .next { s with
        events := s.events ++ (s.slots.slot1.toList.map fun f => ⟨f.label, if s.currentStall then .stall else .if2⟩)
        slots := if s.pendingStall then s.slots else { s.slots with slot2 := s.slots.slot1 } }

/-! ### ID -/

/-- R202 (the spec's own decision D16): the used register fields are checked in the order of the rule's table, and the
first bad one is found; a field is bad when it is outside 0 to 31, and else it is the index of the register of that
number (R21, R84). -/
def Obligations.RegisterFieldsAreCheckedInOrder : Prop :=
  ∀ rd rs rt n : Int,
    firstBadField (.load rd rs n) =
      (if regIndex? rd = none then some (.rd, rd) else if regIndex? rs = none then some (.rs, rs) else none) ∧
    firstBadField (.store rt rs n) =
      (if regIndex? rs = none then some (.rs, rs) else if regIndex? rt = none then some (.rt, rt) else none) ∧
    firstBadField (.bnez rs n) = (if regIndex? rs = none then some (.rs, rs) else none) ∧
    firstBadField (.add rd rs rt) =
      (if regIndex? rd = none then some (.rd, rd) else if regIndex? rs = none then some (.rs, rs)
        else if regIndex? rt = none then some (.rt, rt) else none) ∧
    firstBadField (.addi rd rs n) =
      (if regIndex? rd = none then some (.rd, rd) else if regIndex? rs = none then some (.rs, rs) else none) ∧
    firstBadField (.sub rd rs rt) =
      (if regIndex? rd = none then some (.rd, rd) else if regIndex? rs = none then some (.rs, rs)
        else if regIndex? rt = none then some (.rt, rt) else none) ∧
    firstBadField (.subi rd rs n) =
      (if regIndex? rd = none then some (.rd, rd) else if regIndex? rs = none then some (.rs, rs) else none) ∧
    firstBadField .nop = none ∧
    (regIndex? rd = none ↔ ¬ (0 ≤ rd ∧ rd ≤ 31)) ∧
    ∀ k : Fin Config.numRegs, regIndex? rd = some k ↔ rd = (k.val : Int)

/-- R112, R201, R202 (the spec's own decisions D16, D18): an instruction at ID whose used register fields are not all in
0 to 31 raises the fatal error of the first bad one; nothing but the status changes. -/
def Obligations.BadRegisterIsFatalAtId : Prop :=
  ∀ (s : State) (f : InFlight) (field : FatalField) (v : Int),
    s.stage = .id → s.slots.slot2 = some f → f.ins ≠ .nop → firstBadField f.ins = some (field, v) →
    exec f.ins s = .next { s with status := .fatal ⟨.regIndex, f.label, field, v⟩ }

/-- R117, R119, R120, with R116 (the spec's own decision D11), R113 (D14) and R114 (D10): the four-way decision of ID on an
instruction with good register fields. First the tables: what rs and rt are for each opcode (R73), and on which registers
the hazard test is true (R114, R115): rs, and rt where the format has one, never rd. Then: a LOAD has reserved its
destination first, an older LOAD in flight or not (assumption 18); a hazard keeps the instruction in slot 2 with a bubble in
slot 3, no hazard sends it to slot 3 with its operands read; the event is `stall` exactly when `current_stall` is true. -/
def Obligations.IdStallsOrResolves : Prop :=
  (∀ (u : State) (rd rs rt n : Int),
    (hazard (.load rd rs n) u = true ↔ registerReserved u rs) ∧
    (hazard (.store rt rs n) u = true ↔ registerReserved u rs ∨ registerReserved u rt) ∧
    (hazard (.bnez rs n) u = true ↔ registerReserved u rs) ∧
    (hazard (.add rd rs rt) u = true ↔ registerReserved u rs ∨ registerReserved u rt) ∧
    (hazard (.addi rd rs n) u = true ↔ registerReserved u rs) ∧
    (hazard (.sub rd rs rt) u = true ↔ registerReserved u rs ∨ registerReserved u rt) ∧
    (hazard (.subi rd rs n) u = true ↔ registerReserved u rs) ∧
    rsField (.load rd rs n) = some rs ∧ rtField (.load rd rs n) = none ∧
    rsField (.store rt rs n) = some rs ∧ rtField (.store rt rs n) = some rt ∧
    rsField (.bnez rs n) = some rs ∧ rtField (.bnez rs n) = none ∧
    rsField (.add rd rs rt) = some rs ∧ rtField (.add rd rs rt) = some rt ∧
    rsField (.addi rd rs n) = some rs ∧ rtField (.addi rd rs n) = none ∧
    rsField (.sub rd rs rt) = some rs ∧ rtField (.sub rd rs rt) = some rt ∧
    rsField (.subi rd rs n) = some rs ∧ rtField (.subi rd rs n) = none) ∧
  ∀ (s u : State) (f : InFlight),
    s.stage = .id → s.slots.slot2 = some f → f.ins ≠ .nop → firstBadField f.ins = none →
    u = (match f.ins with
      | .load rd _ _ => s.reserve rd
      | _ => s) →
    (hazard f.ins u = true →
      exec f.ins s = .next { u with
        events := s.events ++ [⟨f.label, if s.currentStall then .stall else .id⟩]
        slots := { s.slots with slot3 := none }
        pendingStall := true }) ∧
    (hazard f.ins u = false →
      exec f.ins s = .next { u with
        events := s.events ++ [⟨f.label, if s.currentStall then .stall else .id⟩]
        slots := { s.slots with slot3 := some { f with
          rsv := (rsField f.ins).bind s.readReg?, rtv := (rtField f.ins).bind s.readReg? } }
        pendingStall := false })

/-- R111 (the spec's own decision D13): ID with an EMPTY slot makes slot 3 EMPTY and the stall decision false. -/
def Obligations.EmptyIdClearsTheStall : Prop :=
  ∀ s : State, s.stage = .id → s.slots.slot2 = none →
    exec .nop s = .next { s with slots := { s.slots with slot3 := none }, pendingStall := false }

/-! ### Fatal errors at MEM2 -/

/-- R150, R204 (the spec's own decision D17): a LOAD or STORE whose address is not that of a cell raises MemIndex with
that address; nothing but the status changes: no register, no cell, no reservation, no slot, no event. -/
def Obligations.BadAddressIsFatalAtMem2 : Prop :=
  ∀ (s : State) (f : InFlight) (base : Word),
    s.stage = .mem2 → s.slots.slot5 = some f → isAccess f.ins = true → InFlight.resolved s.width f = true →
    f.rsv = some base → cellAddress? (effectiveAddress s.width base (offsetField f.ins)) = none →
    exec f.ins s = .next { s with
      status := .fatal ⟨.memIndex, f.label, .address, effectiveAddress s.width base (offsetField f.ins)⟩ }

/-! ### Frames and completion of the meanings at every stage -/

/-- R21, R31, R55, R183: an ALU instruction, at whatever stage, changes no register but rd, no cell, no reservation and
no branch latch. -/
def Obligations.AluFrame : Prop :=
  ∀ (s t : State) (rd rs rt imm : Int) (i : Instr),
    (i = .add rd rs rt ∨ i = .addi rd rs imm ∨ i = .sub rd rs rt ∨ i = .subi rd rs imm) → exec i s = .next t →
    (∀ k : Fin Config.numRegs, regIndex? rd ≠ some k → t.regs[k] = s.regs[k]) ∧
    (s.stage ≠ .ex → t.regs = s.regs) ∧
    (∀ a, t.memRead a = s.memRead a) ∧ t.reserved = s.reserved ∧
    t.brTaken = s.brTaken ∧ t.brTarget = s.brTarget ∧ SameAmbient s t

/-- R21, R31, R151: LOAD, at whatever stage, changes no register and no reservation but those of rd, the register at
MEM2 and the reservation at ID and MEM2 only; it changes no cell and no branch latch. -/
def Obligations.LoadFrame : Prop :=
  ∀ (s t : State) (rd rs offset : Int), exec (.load rd rs offset) s = .next t →
    (∀ k : Fin Config.numRegs, regIndex? rd ≠ some k → t.regs[k] = s.regs[k] ∧ t.reserved[k] = s.reserved[k]) ∧
    (s.stage ≠ .mem2 → t.regs = s.regs) ∧
    (s.stage ≠ .mem2 → s.stage ≠ .id → t.reserved = s.reserved) ∧
    (∀ a, t.memRead a = s.memRead a) ∧
    t.brTaken = s.brTaken ∧ t.brTarget = s.brTarget ∧ SameAmbient s t

/-- R55, R156: STORE, at whatever stage, changes no register, no reservation and no branch latch, and no cell but the
one at its effective address, at MEM2. -/
def Obligations.StoreFrame : Prop :=
  ∀ (s t : State) (rt rs offset : Int), exec (.store rt rs offset) s = .next t →
    t.regs = s.regs ∧ t.reserved = s.reserved ∧ t.brTaken = s.brTaken ∧ t.brTarget = s.brTarget ∧ SameAmbient s t ∧
    (s.stage ≠ .mem2 → ∀ b, t.memRead b = s.memRead b) ∧
    ∀ (f : InFlight) (base : Word) (b : Nat), s.slots.slot5 = some f → f.rsv = some base →
      cellAddress? (effectiveAddress s.width base offset) ≠ some b → t.memRead b = s.memRead b

/-- R21, R31, R170: BRANCH_NE_ZERO, at whatever stage, changes no register, no cell and no reservation, and the branch
latch at EX only. -/
def Obligations.BnezFrame : Prop :=
  ∀ (s t : State) (rs target : Int), exec (.bnez rs target) s = .next t →
    t.regs = s.regs ∧ (∀ a, t.memRead a = s.memRead a) ∧ t.reserved = s.reserved ∧ SameAmbient s t ∧
    (s.stage ≠ .ex → t.brTaken = s.brTaken ∧ t.brTarget = s.brTarget)

/-- R190: NOP, at whatever stage, "reads and writes no register or memory", emits no event, is never checked, and
reserves nothing. -/
def Obligations.NopFrame : Prop :=
  ∀ s t : State, exec .nop s = .next t →
    t.regs = s.regs ∧ (∀ a, t.memRead a = s.memRead a) ∧ t.reserved = s.reserved ∧ t.events = s.events ∧
    t.brTaken = s.brTaken ∧ t.brTarget = s.brTarget ∧ t.status = s.status ∧ SameAmbient s t

/-- R100, R200, under the model's own choices (assumptions 4, 6 and 8): exec works at a stage, a fatal error answers a next
state whose status is Fatal, and only an instruction that did not pass ID stops. An instruction of the pipeline, in a slot
up to ID or resolved in a later one, has a next state at the stage it occupies, and NOP has one at the stage of every EMPTY
slot. -/
def Obligations.EveryOccupantHasANextState : Prop :=
  (∀ (s : State) (f : InFlight), f.ins ≠ .nop → s.slots.get s.stage = some f →
    (InFlight.resolved s.width f = true ∨ s.stage = .if1 ∨ s.stage = .if2 ∨ s.stage = .id) →
    ∃ t, exec f.ins s = .next t) ∧
  ∀ s : State, s.slots.get s.stage = none → ∃ t, exec .nop s = .next t

/-! ### The step -/

/-- R100, R101, R124: when the record at the cursor decodes to i, a step of a Running engine is the work of the older
stages, then `exec i` at IF1, then the end of the cycle; a fatal error in between leaves the rest out (R201). -/
def Obligations.StepRunsTheDecodedInstruction : Prop :=
  ∀ (s : State) (i : Instr), s.status = .running → s.cursorInStore → decode (storeEntry s.store s.cursor.toNat) = .ok i →
    step s = s.backStages.andThen fun u =>
      Out.andThen (u.ifRunning fun u => exec i (u.atStage .if1)) State.endCycle

/-- R35 (derived in the spec): Done is never left and no cycle executes in it; that the state then stays as it is, and
that a step of a Fatal engine is the fault with the failure info (R44, D18), is this model's choice (assumption 6). -/
def Obligations.EndedRunsStayEnded : Prop :=
  (∀ (s : State) (why : DoneReason), s.status = .done why → step s = .next s) ∧
  ∀ (s : State) (info : FatalInfo), s.status = .fatal info → step s = .fault (.fatalError info)

/-- R140 (the spec's own decision D7): with the cursor outside 0 to 127 the run is Done(CursorOut) and no cycle runs. -/
def Obligations.CursorOutEndsTheRun : Prop :=
  ∀ s : State, s.status = .running → ¬ (0 ≤ s.cursor ∧ s.cursor < 128) →
    step s = .next { s with status := .done .cursorOut }

/-- R102: "The result equals a synchronous design in which every pipeline latch is loaded at once at the end of the
cycle", but for the shared state of R103, which later stages see updated. From every state that satisfies the
invariant, a cycle that no fatal error stops is `syncCycle`. The parts rest on the spec's
own decisions D6, D8, D11 to D15 and D23; the order of a release and a reservation, also for a LOAD of its own base, is
assumption 18. -/
def Obligations.CycleIsSynchronous : Prop :=
  ∀ s : State, s.inv = true → s.status = .running → s.cursorInStore → cycleFatal? s = none →
    step s = .next (syncCycle s)

/-- R201, R205, R206 (b) (the spec's own decisions D16 to D18; that the fatal cycle is a next state is assumption 6, and
that its state is held is assumption 13): a cycle with a bad address at MEM2, or else with a bad register field at ID, ends
Fatal with that failure info, MEM2's first. The end-of-cycle steps, IF2 and IF1 have not run. When MEM2 raised it, of all
the cycle only MEM3's move has been made. When ID raised it, the stages WB to EX have done their work and moved their
instructions on, and ID has written nothing. That an older LOAD or STORE in EX or MEM1 then never has its effect, where R206
(a) says that every older instruction has made all of them, is this model's choice (assumption 19). -/
def Obligations.FatalErrorStopsTheCycle : Prop :=
  ∀ (s : State) (info : FatalInfo), s.inv = true → s.status = .running → s.cursorInStore → cycleFatal? s = some info →
    ∃ t, step s = .next t ∧ t.status = .fatal info ∧ t.trace = s.trace ∧ t.cycle = s.cycle ∧
      t.currentStall = s.currentStall ∧ t.pendingStall = s.pendingStall ∧ t.cursor = s.cursor ∧ t.issue = s.issue ∧
      (mem2Fatal? s = some info →
        t.slots = { s.slots with slot7 := s.slots.slot6 } ∧ t.regs = s.regs ∧ t.mem = s.mem ∧
        t.reserved = s.reserved ∧ t.brTaken = s.brTaken ∧ t.brTarget = s.brTarget) ∧
      (mem2Fatal? s = none →
        t.slots = { s.slots with
          slot4 := s.slots.slot3, slot5 := s.slots.slot4, slot6 := s.slots.slot5, slot7 := s.slots.slot6 } ∧
        t.mem = memAfter s ∧
        ∀ k : Fin Config.numRegs, t.regs[k] = regAfter s k ∧
          t.reserved[k] = (s.reserved[k] && !s.slots.slot5.any fun f => loadsTo f.ins k))

/-- R101: from every state that satisfies the invariant and is not Fatal, a step has a next state, whatever the program and
the data. R14 counts a fatal error and Done as outcomes of their own; that the cycle of a fatal error is a next state with
the status Fatal, and that Done answers the same state, is this model's choice (assumption 6). So the statement says that
the model's faults and refusals belong to states outside the invariant (assumption 8). -/
def Obligations.StepAlwaysHasANextState : Prop :=
  ∀ s : State, s.inv = true → s.isFatal = false → ∃ t, step s = .next t

/-- Every step keeps the invariant: canonical memory, W-bit values, a well-formed store, operands read exactly past ID,
clear latches, a cursor in 0 to 128, and labels in program order (R25, R29, R33, R39, R58, R130). -/
def Obligations.StepKeepsTheInvariant : Prop :=
  ∀ s t : State, s.inv = true → step s = .next t → t.inv = true

/-- The invariant holds after reset and after every well-formed launch (R230, R78). -/
def Obligations.LaunchEstablishesTheInvariant : Prop :=
  State.reset.inv = true ∧ ∀ (l : Launch) (s : State), launch l = .next s → s.inv = true

/-- The memory keeps its canonical form in every step, of every state (assumption 3). -/
def Obligations.StepKeepsMemoryCanonical : Prop :=
  ∀ s t : State, Memory.wf s.mem = true → step s = .next t → Memory.wf t.mem = true

/-- R61: the instruction store is immutable during a run; so is VALUE_WIDTH (R15). -/
def Obligations.StepKeepsTheProgram : Prop :=
  ∀ s t : State, step s = .next t → t.store = s.store ∧ t.width = s.width

/-- R55: a step changes a cell only where a STORE at MEM2 stores. -/
def Obligations.OnlyStoresChangeMemory : Prop :=
  ∀ (s t : State) (b : Nat), step s = .next t → t.memRead b ≠ s.memRead b →
    ∃ f rt rs offset base v, s.slots.slot5 = some f ∧ f.ins = .store rt rs offset ∧ f.rsv = some base ∧ f.rtv = some v ∧
      cellAddress? (effectiveAddress s.width base offset) = some b

/-- R21: a step changes a register only for an ALU instruction at EX or a LOAD at MEM2 with that destination. -/
def Obligations.OnlyAluAndLoadChangeRegisters : Prop :=
  ∀ (s t : State) (k : Fin Config.numRegs), step s = .next t → t.regs[k] ≠ s.regs[k] →
    (∃ f, s.slots.slot3 = some f ∧ computesTo f.ins k = true) ∨ ∃ f, s.slots.slot5 = some f ∧ loadsTo f.ins k = true

/-- R31: a reservation bit is set only by a LOAD to its register at ID and cleared only by one at MEM2; "Nothing else
writes it: not an ALU instruction, not a squash, not a fatal error." -/
def Obligations.OnlyLoadsChangeReservations : Prop :=
  ∀ (s t : State) (k : Fin Config.numRegs), step s = .next t →
    (s.reserved[k] = false → t.reserved[k] = true → ∃ f, s.slots.slot2 = some f ∧ loadsTo f.ins k = true) ∧
    (s.reserved[k] = true → t.reserved[k] = false → ∃ f, s.slots.slot5 = some f ∧ loadsTo f.ins k = true)

/-- R34 (that a fatal cycle counts for nothing is the spec's own decision D23): the cycle counter starts at 1; a step
either completes a cycle, appends its record and counts on, or does none of these: the last only when the run has
ended. -/
def Obligations.CycleCounterCountsRecords : Prop :=
  State.reset.cycle = 1 ∧
  ∀ s t : State, step s = .next t →
    (t.cycle = s.cycle + 1 ∧ t.trace = s.trace ++ [⟨s.cycle, t.events⟩] ∧ t.isFatal = false) ∨
    (t.cycle = s.cycle ∧ t.trace = s.trace ∧ t.status ≠ .running)

/-- R132: after a completed cycle the run is Done(Drained) if all 8 slots are EMPTY, and else goes on. -/
def Obligations.DrainedExactlyWhenEmpty : Prop :=
  ∀ s t : State, s.status = .running → step s = .next t → t.cycle = s.cycle + 1 →
    t.status = if t.slots = Slots.empty then .done .drained else .running

/-- R30 (derived in the spec): in a completed cycle the back slots move up by one, slot 3 receives what was in ID or a
bubble, slot 2 what was in IF2, its own content or EMPTY, and slot 1 the fetch, its own content or EMPTY.
The fetch that slot 1 takes is that of this cycle (R124, R126; assumption 21). -/
def Obligations.SlotsMoveInOrder : Prop :=
  ∀ s t : State, s.status = .running → step s = .next t → t.cycle = s.cycle + 1 →
    t.slots.slot7 = s.slots.slot6 ∧ t.slots.slot6 = s.slots.slot5 ∧ t.slots.slot5 = s.slots.slot4 ∧
    t.slots.slot4 = s.slots.slot3 ∧
    (t.slots.slot3 = none ∨ ∃ g, s.slots.slot2 = some g ∧ t.slots.slot3 = some (resolve t g)) ∧
    (t.slots.slot2 = none ∨ t.slots.slot2 = s.slots.slot1 ∨ t.slots.slot2 = s.slots.slot2) ∧
    (t.slots.slot1 = none ∨ t.slots.slot1 = t.slots.slot0 ∨ t.slots.slot1 = s.slots.slot1)

/-- R129, R173, R247 (the spec's own decision D15): a taken branch leaves slots 1, 2 and 3 EMPTY and the cursor at its
target with the latch clear, moves on to slot 4 itself, and the squashed LOAD's reservation stays. -/
def Obligations.TakenBranchSquashes : Prop :=
  ∀ (s t : State) (f : InFlight) (rs target : Int) (v : Word),
    s.status = .running → step s = .next t → t.cycle = s.cycle + 1 →
    s.slots.slot3 = some f → f.ins = .bnez rs target → f.rsv = some v → v ≠ 0 →
    t.slots.slot1 = none ∧ t.slots.slot2 = none ∧ t.slots.slot3 = none ∧ t.slots.slot4 = some f ∧
    t.cursor = target ∧ t.brTaken = false ∧ t.brTarget = 0 ∧
    ∀ (g : InFlight) (k : Fin Config.numRegs), s.slots.slot2 = some g → loadsTo g.ins k = true → t.reserved[k] = true

/-- R172: a branch that is not taken changes no state at EX: no squash happens and fetch continues in sequence. -/
def Obligations.UntakenBranchFallsThrough : Prop :=
  ∀ (s t : State) (f : InFlight) (rs target : Int),
    s.inv = true → s.status = .running → step s = .next t → t.cycle = s.cycle + 1 →
    s.slots.slot3 = some f → f.ins = .bnez rs target → f.rsv = some 0 →
    t.cursor = (if t.pendingStall then s.cursor else s.cursor + 1) ∧
    t.slots.slot1 = (if t.pendingStall then s.slots.slot1 else t.slots.slot0) ∧
    t.slots.slot2 = (if t.pendingStall then s.slots.slot2 else s.slots.slot1) ∧
    (t.slots.slot3.isSome = true ↔ t.pendingStall = false ∧ s.slots.slot2.isSome = true)

/-- R103, R115, R188, R241 (derived in the spec, from its decision D8): with an ALU instruction to register k at EX and an
instruction at ID, in a cycle that completes: register k then holds the result of the cycle; an ALU destination makes no
reader stall, so if no source of the reader is reserved by a LOAD it leaves ID in this cycle; and whenever it leaves, an
operand of its own that names k, rs or rt, has that result. -/
def Obligations.ResultsReachTheNextInstruction : Prop :=
  ∀ (s t : State) (f g : InFlight) (k : Fin Config.numRegs),
    s.inv = true → s.status = .running → step s = .next t → t.cycle = s.cycle + 1 →
    s.slots.slot3 = some f → computesTo f.ins k = true → s.slots.slot2 = some g →
    t.regs[k] = aluResult s f ∧
    ((∀ r ∈ sources g.ins, ∀ j, regIndex? r = some j → s.reserved[j] = false ∧ loadsTo g.ins j = false) →
      t.pendingStall = false ∧ t.slots.slot3 = some (resolve t g)) ∧
    ∀ g', t.slots.slot3 = some g' →
      g' = resolve t g ∧
      (∀ r, rsField g.ins = some r → regIndex? r = some k → g'.rsv = some (aluResult s f)) ∧
      ∀ r, rtField g.ins = some r → regIndex? r = some k → g'.rtv = some (aluResult s f)

/-- R43: the final report exists exactly when the run is Done; it lists exactly the non-zero registers and cells, each
with its value, in ascending order. -/
def Obligations.ReportListsTheNonZero : Prop :=
  ∀ s : State, (s.report?.isSome = true ↔ ∃ why, s.status = .done why) ∧ ∀ r : Report, s.report? = some r →
    (∀ (k : Fin Config.numRegs) (v : Word), (k.val, v) ∈ r.registers ↔ s.regs[k] = v ∧ v ≠ 0) ∧
    (∀ e ∈ r.registers, e.1 < Config.numRegs) ∧ (r.registers.map Prod.fst).Pairwise (· < ·) ∧
    (∀ (k : Fin Config.memWords) (v : Word),
      (Config.wordBytes * k.val, v) ∈ r.memory ↔ s.memRead (Config.wordBytes * k.val) = v ∧ v ≠ 0) ∧
    (∀ e ∈ r.memory, ∃ k, k < Config.memWords ∧ e.1 = Config.wordBytes * k) ∧
    (r.memory.map Prod.fst).Pairwise (· < ·)

/-- R21, R22 (R22 is the spec's own decision D3): index k reads register k and no index outside 0 to 31 reads any; a write to
a register, R0 included, is read back, and other registers keep their value. -/
def Obligations.EveryRegisterIsOrdinary : Prop :=
  (∀ (s : State) (i : Int) (v : Word),
    s.readReg? i = some v ↔ ∃ k : Fin Config.numRegs, i = (k.val : Int) ∧ s.regs[k] = v) ∧
  ∀ (s : State) (v : Word) (i j : Int) (k : Fin Config.numRegs), i = (k.val : Int) →
    (s.writeReg k v).readReg? i = some v ∧ (j ≠ i → (s.writeReg k v).readReg? j = s.readReg? j)

/-! ### Runs -/

/-- R154, R247, R249 (derived in the spec, from its decisions D14 and D15): an instruction in ID that reads a register
which is reserved, or which it reserves itself, with no LOAD to that register and no taken branch older than it in
flight, stays in ID for ever: after any number of steps that answer a next state the engine is Fatal, from an older
instruction, or it is Running with the instruction still in slot 2 and the cursor and the issue counter where they
were. That a LOAD of
its own base is not freed by an older LOAD either (assumption 18) is not stated here: such a LOAD is ruled out. -/
def Obligations.UnreleasedReaderHangsForEver : Prop :=
  ∀ (s : State) (g : InFlight) (r : Int) (k : Fin Config.numRegs),
    s.inv = true → s.status = .running → s.cursorInStore → s.slots.slot2 = some g → firstBadField g.ins = none →
    r ∈ sources g.ins → regIndex? r = some k → (s.reserved[k] = true ∨ loadsTo g.ins k = true) →
    (∀ f, s.slots.slot3 = some f ∨ s.slots.slot4 = some f ∨ s.slots.slot5 = some f → loadsTo f.ins k = false) →
    takenTarget? s = none →
    ∀ (n : Nat) (t : State), steps n s = .next t →
      t.isFatal = true ∨
      (t.status = .running ∧ t.slots.slot2 = some g ∧ t.slots.slot1 = s.slots.slot1 ∧ t.cursor = s.cursor ∧
        t.issue = s.issue)

/-- R143, first case (derived in the spec; 90_conflicts.md C1): a LOAD that leaves ID in one cycle and, directly behind it, an
instruction c of any opcode that reads its destination, four completed cycles on. No other source of c is reserved, and c is
no LOAD to the register it reads (R154). c is in ID for three cycles, told as ID, stall and stall, with two bubbles behind
the LOAD, and enters EX with the value the LOAD has read, which is then in the register, in each operand that names it. -/
def Obligations.LoadUseTakesTwoBubbles : Prop :=
  ∀ (s s1 s2 s3 s4 : State) (l c : InFlight) (rd rs offset : Int) (k : Fin Config.numRegs),
    s.inv = true → s.status = .running → s.slots.slot2 = some l → s.slots.slot1 = some c →
    l.ins = .load rd rs offset → rd ∈ sources c.ins → regIndex? rd = some k → loadsTo c.ins k = false →
    (∀ r ∈ sources c.ins, r ≠ rd → ∀ j, regIndex? r = some j → s.reserved[j] = false) →
    stallsAtId s = false → takenTarget? s = none →
    (∀ f, s.slots.slot3 = some f ∨ s.slots.slot4 = some f → loadsTo f.ins k = false) →
    step s = .next s1 → step s1 = .next s2 → step s2 = .next s3 → step s3 = .next s4 → s4.cycle = s.cycle + 4 →
    s1.slots.slot2 = some c ∧ s1.slots.slot3.map (fun f => (f.ins, f.label)) = some (l.ins, l.label) ∧
    s2.slots.slot2 = some c ∧ s2.slots.slot3 = none ∧ ⟨c.label, .id⟩ ∈ s2.events ∧
    s3.slots.slot2 = some c ∧ s3.slots.slot3 = none ∧ ⟨c.label, .stall⟩ ∈ s3.events ∧
    ⟨c.label, .stall⟩ ∈ s4.events ∧
    ∃ f base a, s3.slots.slot5 = some f ∧ f.label = l.label ∧ f.rsv = some base ∧
      cellAddress? (effectiveAddress s.width base offset) = some a ∧
      s4.regs[k] = s3.memRead a ∧
      s4.slots.slot3 = some (resolve s4 c) ∧
      (rsField c.ins = some rd → (resolve s4 c).rsv = some (s3.memRead a)) ∧
      (rtField c.ins = some rd → (resolve s4 c).rtv = some (s3.memRead a))

/-- R144 (derived in the spec): the step after a taken branch fetches the record at the target, with the issue number as
its label; it advances into slot 1, and no squashed instruction is in slots 1 to 3. -/
def Obligations.TargetIsFetchedNext : Prop :=
  ∀ (s t u : State) (target : Int) (i : Instr),
    s.inv = true → s.status = .running → takenTarget? s = some target →
    step s = .next t → step t = .next u → u.cycle = s.cycle + 2 →
    decode (storeEntry s.store target.toNat) = .ok i → i ≠ .nop →
    u.slots.slot0 = some ⟨i, t.issue, none, none⟩ ∧ u.slots.slot1 = some ⟨i, t.issue, none, none⟩ ∧
    u.slots.slot2 = none ∧ u.slots.slot3 = none ∧ u.slots.slot4 = none ∧ u.cursor = target + 1

/-- R58, R158 (derived in the spec): a STORE at MEM2 and, with the memory as it left it, a LOAD at MEM2 of the same
address: the LOAD writes the stored value to its destination. -/
def Obligations.StoreThenLoadReadsTheStoredValue : Prop :=
  ∀ (s t u v : State) (f g : InFlight) (rt rs off rd rs' off' : Int) (b b' w : Word) (a : Nat) (k : Fin Config.numRegs),
    Memory.wf s.mem = true → s.stage = .mem2 → s.status = .running → s.slots.slot5 = some f →
    f.ins = .store rt rs off → f.rsv = some b → f.rtv = some w → cellAddress? (effectiveAddress s.width b off) = some a →
    exec (.store rt rs off) s = .next t →
    u.mem = t.mem → u.stage = .mem2 → u.slots.slot5 = some g → g.ins = .load rd rs' off' → g.rsv = some b' →
    cellAddress? (effectiveAddress u.width b' off') = some a → regIndex? rd = some k →
    exec (.load rd rs' off') u = .next v → v.regs[k] = w

/-- R212 (the spec's own decision D5): the two counters and the labels they give are seen only in the trace. Two states
that differ in nothing else have steps that differ in nothing else: no register, cell, latch or branch depends on a
label. -/
def Obligations.LabelsInfluenceNothing : Prop :=
  ∀ s s' : State, s.unlabelled = s'.unlabelled → Out.unlabelled (step s) = Out.unlabelled (step s')
end

