-- ==== Sys2Proof/Laws/State.lean ====
section
/-! SUPPORT. The simp lemmas of the state: one per field per update, and the slot projections. -/

namespace Sys2Proof.Machine

section memWrite
variable (s : State) (a : Nat) (v : Word)
@[simp] theorem memWrite_width : (s.memWrite a v).width = s.width := rfl
@[simp] theorem memWrite_store : (s.memWrite a v).store = s.store := rfl
@[simp] theorem memWrite_regs : (s.memWrite a v).regs = s.regs := rfl
@[simp] theorem memWrite_mem : (s.memWrite a v).mem = Memory.write s.mem a v := rfl
@[simp] theorem memWrite_cursor : (s.memWrite a v).cursor = s.cursor := rfl
@[simp] theorem memWrite_issue : (s.memWrite a v).issue = s.issue := rfl
@[simp] theorem memWrite_slots : (s.memWrite a v).slots = s.slots := rfl
@[simp] theorem memWrite_reserved : (s.memWrite a v).reserved = s.reserved := rfl
@[simp] theorem memWrite_currentStall : (s.memWrite a v).currentStall = s.currentStall := rfl
@[simp] theorem memWrite_pendingStall : (s.memWrite a v).pendingStall = s.pendingStall := rfl
@[simp] theorem memWrite_brTaken : (s.memWrite a v).brTaken = s.brTaken := rfl
@[simp] theorem memWrite_brTarget : (s.memWrite a v).brTarget = s.brTarget := rfl
@[simp] theorem memWrite_cycle : (s.memWrite a v).cycle = s.cycle := rfl
@[simp] theorem memWrite_status : (s.memWrite a v).status = s.status := rfl
@[simp] theorem memWrite_events : (s.memWrite a v).events = s.events := rfl
@[simp] theorem memWrite_trace : (s.memWrite a v).trace = s.trace := rfl
@[simp] theorem memWrite_stage : (s.memWrite a v).stage = s.stage := rfl
end memWrite

section writeReg
variable (s : State) (k : Fin Config.numRegs) (v : Word)
@[simp] theorem writeReg_width : (s.writeReg k v).width = s.width := rfl
@[simp] theorem writeReg_store : (s.writeReg k v).store = s.store := rfl
@[simp] theorem writeReg_regs : (s.writeReg k v).regs = s.regs.set k v := rfl
@[simp] theorem writeReg_mem : (s.writeReg k v).mem = s.mem := rfl
@[simp] theorem writeReg_cursor : (s.writeReg k v).cursor = s.cursor := rfl
@[simp] theorem writeReg_issue : (s.writeReg k v).issue = s.issue := rfl
@[simp] theorem writeReg_slots : (s.writeReg k v).slots = s.slots := rfl
@[simp] theorem writeReg_reserved : (s.writeReg k v).reserved = s.reserved := rfl
@[simp] theorem writeReg_currentStall : (s.writeReg k v).currentStall = s.currentStall := rfl
@[simp] theorem writeReg_pendingStall : (s.writeReg k v).pendingStall = s.pendingStall := rfl
@[simp] theorem writeReg_brTaken : (s.writeReg k v).brTaken = s.brTaken := rfl
@[simp] theorem writeReg_brTarget : (s.writeReg k v).brTarget = s.brTarget := rfl
@[simp] theorem writeReg_cycle : (s.writeReg k v).cycle = s.cycle := rfl
@[simp] theorem writeReg_status : (s.writeReg k v).status = s.status := rfl
@[simp] theorem writeReg_events : (s.writeReg k v).events = s.events := rfl
@[simp] theorem writeReg_trace : (s.writeReg k v).trace = s.trace := rfl
@[simp] theorem writeReg_stage : (s.writeReg k v).stage = s.stage := rfl
end writeReg

section setReserved
variable (s : State) (k : Fin Config.numRegs) (b : Bool)
@[simp] theorem setReserved_width : (s.setReserved k b).width = s.width := rfl
@[simp] theorem setReserved_store : (s.setReserved k b).store = s.store := rfl
@[simp] theorem setReserved_regs : (s.setReserved k b).regs = s.regs := rfl
@[simp] theorem setReserved_mem : (s.setReserved k b).mem = s.mem := rfl
@[simp] theorem setReserved_cursor : (s.setReserved k b).cursor = s.cursor := rfl
@[simp] theorem setReserved_issue : (s.setReserved k b).issue = s.issue := rfl
@[simp] theorem setReserved_slots : (s.setReserved k b).slots = s.slots := rfl
@[simp] theorem setReserved_reserved : (s.setReserved k b).reserved = s.reserved.set k b := rfl
@[simp] theorem setReserved_currentStall : (s.setReserved k b).currentStall = s.currentStall := rfl
@[simp] theorem setReserved_pendingStall : (s.setReserved k b).pendingStall = s.pendingStall := rfl
@[simp] theorem setReserved_brTaken : (s.setReserved k b).brTaken = s.brTaken := rfl
@[simp] theorem setReserved_brTarget : (s.setReserved k b).brTarget = s.brTarget := rfl
@[simp] theorem setReserved_cycle : (s.setReserved k b).cycle = s.cycle := rfl
@[simp] theorem setReserved_status : (s.setReserved k b).status = s.status := rfl
@[simp] theorem setReserved_events : (s.setReserved k b).events = s.events := rfl
@[simp] theorem setReserved_trace : (s.setReserved k b).trace = s.trace := rfl
@[simp] theorem setReserved_stage : (s.setReserved k b).stage = s.stage := rfl
end setReserved

section setSlot
variable (s : State) (st : Stage) (v : Option InFlight)
@[simp] theorem setSlot_width : (s.setSlot st v).width = s.width := rfl
@[simp] theorem setSlot_store : (s.setSlot st v).store = s.store := rfl
@[simp] theorem setSlot_regs : (s.setSlot st v).regs = s.regs := rfl
@[simp] theorem setSlot_mem : (s.setSlot st v).mem = s.mem := rfl
@[simp] theorem setSlot_cursor : (s.setSlot st v).cursor = s.cursor := rfl
@[simp] theorem setSlot_issue : (s.setSlot st v).issue = s.issue := rfl
@[simp] theorem setSlot_slots : (s.setSlot st v).slots = s.slots.put st v := rfl
@[simp] theorem setSlot_reserved : (s.setSlot st v).reserved = s.reserved := rfl
@[simp] theorem setSlot_currentStall : (s.setSlot st v).currentStall = s.currentStall := rfl
@[simp] theorem setSlot_pendingStall : (s.setSlot st v).pendingStall = s.pendingStall := rfl
@[simp] theorem setSlot_brTaken : (s.setSlot st v).brTaken = s.brTaken := rfl
@[simp] theorem setSlot_brTarget : (s.setSlot st v).brTarget = s.brTarget := rfl
@[simp] theorem setSlot_cycle : (s.setSlot st v).cycle = s.cycle := rfl
@[simp] theorem setSlot_status : (s.setSlot st v).status = s.status := rfl
@[simp] theorem setSlot_events : (s.setSlot st v).events = s.events := rfl
@[simp] theorem setSlot_trace : (s.setSlot st v).trace = s.trace := rfl
@[simp] theorem setSlot_stage : (s.setSlot st v).stage = s.stage := rfl
end setSlot

section emit
variable (s : State) (n : Nat) (g : Tag)
@[simp] theorem emit_width : (s.emit n g).width = s.width := rfl
@[simp] theorem emit_store : (s.emit n g).store = s.store := rfl
@[simp] theorem emit_regs : (s.emit n g).regs = s.regs := rfl
@[simp] theorem emit_mem : (s.emit n g).mem = s.mem := rfl
@[simp] theorem emit_cursor : (s.emit n g).cursor = s.cursor := rfl
@[simp] theorem emit_issue : (s.emit n g).issue = s.issue := rfl
@[simp] theorem emit_slots : (s.emit n g).slots = s.slots := rfl
@[simp] theorem emit_reserved : (s.emit n g).reserved = s.reserved := rfl
@[simp] theorem emit_currentStall : (s.emit n g).currentStall = s.currentStall := rfl
@[simp] theorem emit_pendingStall : (s.emit n g).pendingStall = s.pendingStall := rfl
@[simp] theorem emit_brTaken : (s.emit n g).brTaken = s.brTaken := rfl
@[simp] theorem emit_brTarget : (s.emit n g).brTarget = s.brTarget := rfl
@[simp] theorem emit_cycle : (s.emit n g).cycle = s.cycle := rfl
@[simp] theorem emit_status : (s.emit n g).status = s.status := rfl
@[simp] theorem emit_events : (s.emit n g).events = s.events ++ [⟨n, g⟩] := rfl
@[simp] theorem emit_trace : (s.emit n g).trace = s.trace := rfl
@[simp] theorem emit_stage : (s.emit n g).stage = s.stage := rfl
end emit

section setPending
variable (s : State) (b : Bool)
@[simp] theorem setPending_width : (s.setPending b).width = s.width := rfl
@[simp] theorem setPending_store : (s.setPending b).store = s.store := rfl
@[simp] theorem setPending_regs : (s.setPending b).regs = s.regs := rfl
@[simp] theorem setPending_mem : (s.setPending b).mem = s.mem := rfl
@[simp] theorem setPending_cursor : (s.setPending b).cursor = s.cursor := rfl
@[simp] theorem setPending_issue : (s.setPending b).issue = s.issue := rfl
@[simp] theorem setPending_slots : (s.setPending b).slots = s.slots := rfl
@[simp] theorem setPending_reserved : (s.setPending b).reserved = s.reserved := rfl
@[simp] theorem setPending_currentStall : (s.setPending b).currentStall = s.currentStall := rfl
@[simp] theorem setPending_pendingStall : (s.setPending b).pendingStall = b := rfl
@[simp] theorem setPending_brTaken : (s.setPending b).brTaken = s.brTaken := rfl
@[simp] theorem setPending_brTarget : (s.setPending b).brTarget = s.brTarget := rfl
@[simp] theorem setPending_cycle : (s.setPending b).cycle = s.cycle := rfl
@[simp] theorem setPending_status : (s.setPending b).status = s.status := rfl
@[simp] theorem setPending_events : (s.setPending b).events = s.events := rfl
@[simp] theorem setPending_trace : (s.setPending b).trace = s.trace := rfl
@[simp] theorem setPending_stage : (s.setPending b).stage = s.stage := rfl
end setPending

section takeBranch
variable (s : State) (t : Int)
@[simp] theorem takeBranch_width : (s.takeBranch t).width = s.width := rfl
@[simp] theorem takeBranch_store : (s.takeBranch t).store = s.store := rfl
@[simp] theorem takeBranch_regs : (s.takeBranch t).regs = s.regs := rfl
@[simp] theorem takeBranch_mem : (s.takeBranch t).mem = s.mem := rfl
@[simp] theorem takeBranch_cursor : (s.takeBranch t).cursor = s.cursor := rfl
@[simp] theorem takeBranch_issue : (s.takeBranch t).issue = s.issue := rfl
@[simp] theorem takeBranch_slots : (s.takeBranch t).slots = s.slots := rfl
@[simp] theorem takeBranch_reserved : (s.takeBranch t).reserved = s.reserved := rfl
@[simp] theorem takeBranch_currentStall : (s.takeBranch t).currentStall = s.currentStall := rfl
@[simp] theorem takeBranch_pendingStall : (s.takeBranch t).pendingStall = s.pendingStall := rfl
@[simp] theorem takeBranch_brTaken : (s.takeBranch t).brTaken = true := rfl
@[simp] theorem takeBranch_brTarget : (s.takeBranch t).brTarget = t := rfl
@[simp] theorem takeBranch_cycle : (s.takeBranch t).cycle = s.cycle := rfl
@[simp] theorem takeBranch_status : (s.takeBranch t).status = s.status := rfl
@[simp] theorem takeBranch_events : (s.takeBranch t).events = s.events := rfl
@[simp] theorem takeBranch_trace : (s.takeBranch t).trace = s.trace := rfl
@[simp] theorem takeBranch_stage : (s.takeBranch t).stage = s.stage := rfl
end takeBranch

section atStage
variable (s : State) (st : Stage)
@[simp] theorem atStage_width : (s.atStage st).width = s.width := rfl
@[simp] theorem atStage_store : (s.atStage st).store = s.store := rfl
@[simp] theorem atStage_regs : (s.atStage st).regs = s.regs := rfl
@[simp] theorem atStage_mem : (s.atStage st).mem = s.mem := rfl
@[simp] theorem atStage_cursor : (s.atStage st).cursor = s.cursor := rfl
@[simp] theorem atStage_issue : (s.atStage st).issue = s.issue := rfl
@[simp] theorem atStage_slots : (s.atStage st).slots = s.slots := rfl
@[simp] theorem atStage_reserved : (s.atStage st).reserved = s.reserved := rfl
@[simp] theorem atStage_currentStall : (s.atStage st).currentStall = s.currentStall := rfl
@[simp] theorem atStage_pendingStall : (s.atStage st).pendingStall = s.pendingStall := rfl
@[simp] theorem atStage_brTaken : (s.atStage st).brTaken = s.brTaken := rfl
@[simp] theorem atStage_brTarget : (s.atStage st).brTarget = s.brTarget := rfl
@[simp] theorem atStage_cycle : (s.atStage st).cycle = s.cycle := rfl
@[simp] theorem atStage_status : (s.atStage st).status = s.status := rfl
@[simp] theorem atStage_events : (s.atStage st).events = s.events := rfl
@[simp] theorem atStage_trace : (s.atStage st).trace = s.trace := rfl
@[simp] theorem atStage_stage : (s.atStage st).stage = st := rfl
end atStage

section raiseFatal
variable (s : State) (info : FatalInfo)
@[simp] theorem raiseFatal_width : (s.raiseFatal info).width = s.width := rfl
@[simp] theorem raiseFatal_store : (s.raiseFatal info).store = s.store := rfl
@[simp] theorem raiseFatal_regs : (s.raiseFatal info).regs = s.regs := rfl
@[simp] theorem raiseFatal_mem : (s.raiseFatal info).mem = s.mem := rfl
@[simp] theorem raiseFatal_cursor : (s.raiseFatal info).cursor = s.cursor := rfl
@[simp] theorem raiseFatal_issue : (s.raiseFatal info).issue = s.issue := rfl
@[simp] theorem raiseFatal_slots : (s.raiseFatal info).slots = s.slots := rfl
@[simp] theorem raiseFatal_reserved : (s.raiseFatal info).reserved = s.reserved := rfl
@[simp] theorem raiseFatal_currentStall : (s.raiseFatal info).currentStall = s.currentStall := rfl
@[simp] theorem raiseFatal_pendingStall : (s.raiseFatal info).pendingStall = s.pendingStall := rfl
@[simp] theorem raiseFatal_brTaken : (s.raiseFatal info).brTaken = s.brTaken := rfl
@[simp] theorem raiseFatal_brTarget : (s.raiseFatal info).brTarget = s.brTarget := rfl
@[simp] theorem raiseFatal_cycle : (s.raiseFatal info).cycle = s.cycle := rfl
@[simp] theorem raiseFatal_status : (s.raiseFatal info).status = .fatal info := rfl
@[simp] theorem raiseFatal_events : (s.raiseFatal info).events = s.events := rfl
@[simp] theorem raiseFatal_trace : (s.raiseFatal info).trace = s.trace := rfl
@[simp] theorem raiseFatal_stage : (s.raiseFatal info).stage = s.stage := rfl
end raiseFatal

section latchStall
variable (s : State)
@[simp] theorem latchStall_width : s.latchStall.width = s.width := rfl
@[simp] theorem latchStall_store : s.latchStall.store = s.store := rfl
@[simp] theorem latchStall_regs : s.latchStall.regs = s.regs := rfl
@[simp] theorem latchStall_mem : s.latchStall.mem = s.mem := rfl
@[simp] theorem latchStall_cursor : s.latchStall.cursor = s.cursor := rfl
@[simp] theorem latchStall_issue : s.latchStall.issue = s.issue := rfl
@[simp] theorem latchStall_slots : s.latchStall.slots = s.slots := rfl
@[simp] theorem latchStall_reserved : s.latchStall.reserved = s.reserved := rfl
@[simp] theorem latchStall_currentStall : s.latchStall.currentStall = s.pendingStall := rfl
@[simp] theorem latchStall_pendingStall : s.latchStall.pendingStall = s.pendingStall := rfl
@[simp] theorem latchStall_brTaken : s.latchStall.brTaken = s.brTaken := rfl
@[simp] theorem latchStall_brTarget : s.latchStall.brTarget = s.brTarget := rfl
@[simp] theorem latchStall_cycle : s.latchStall.cycle = s.cycle := rfl
@[simp] theorem latchStall_status : s.latchStall.status = s.status := rfl
@[simp] theorem latchStall_events : s.latchStall.events = s.events := rfl
@[simp] theorem latchStall_trace : s.latchStall.trace = s.trace := rfl
@[simp] theorem latchStall_stage : s.latchStall.stage = s.stage := rfl
end latchStall

section record
variable (s : State)
@[simp] theorem record_width : s.record.width = s.width := rfl
@[simp] theorem record_store : s.record.store = s.store := rfl
@[simp] theorem record_regs : s.record.regs = s.regs := rfl
@[simp] theorem record_mem : s.record.mem = s.mem := rfl
@[simp] theorem record_cursor : s.record.cursor = s.cursor := rfl
@[simp] theorem record_issue : s.record.issue = s.issue := rfl
@[simp] theorem record_slots : s.record.slots = s.slots := rfl
@[simp] theorem record_reserved : s.record.reserved = s.reserved := rfl
@[simp] theorem record_currentStall : s.record.currentStall = s.currentStall := rfl
@[simp] theorem record_pendingStall : s.record.pendingStall = s.pendingStall := rfl
@[simp] theorem record_brTaken : s.record.brTaken = s.brTaken := rfl
@[simp] theorem record_brTarget : s.record.brTarget = s.brTarget := rfl
@[simp] theorem record_cycle : s.record.cycle = s.cycle + 1 := rfl
@[simp] theorem record_status : s.record.status = s.status := rfl
@[simp] theorem record_events : s.record.events = s.events := rfl
@[simp] theorem record_trace : s.record.trace = s.trace ++ [⟨s.cycle, s.events⟩] := rfl
@[simp] theorem record_stage : s.record.stage = s.stage := rfl
end record

section slots
variable (sl : Slots) (v : Option InFlight)
@[simp] theorem slots_get_if1 : sl.get .if1 = sl.slot0 := rfl
@[simp] theorem slots_get_if2 : sl.get .if2 = sl.slot1 := rfl
@[simp] theorem slots_get_id : sl.get .id = sl.slot2 := rfl
@[simp] theorem slots_get_ex : sl.get .ex = sl.slot3 := rfl
@[simp] theorem slots_get_mem1 : sl.get .mem1 = sl.slot4 := rfl
@[simp] theorem slots_get_mem2 : sl.get .mem2 = sl.slot5 := rfl
@[simp] theorem slots_get_mem3 : sl.get .mem3 = sl.slot6 := rfl
@[simp] theorem slots_get_wb : sl.get .wb = sl.slot7 := rfl
@[simp] theorem slots_put_if1 : sl.put .if1 v = { sl with slot0 := v } := rfl
@[simp] theorem slots_put_if2 : sl.put .if2 v = { sl with slot1 := v } := rfl
@[simp] theorem slots_put_id : sl.put .id v = { sl with slot2 := v } := rfl
@[simp] theorem slots_put_ex : sl.put .ex v = { sl with slot3 := v } := rfl
@[simp] theorem slots_put_mem1 : sl.put .mem1 v = { sl with slot4 := v } := rfl
@[simp] theorem slots_put_mem2 : sl.put .mem2 v = { sl with slot5 := v } := rfl
@[simp] theorem slots_put_mem3 : sl.put .mem3 v = { sl with slot6 := v } := rfl
@[simp] theorem slots_put_wb : sl.put .wb v = { sl with slot7 := v } := rfl
end slots

theorem slots_get_put_same (sl : Slots) (st : Stage) (v : Option InFlight) : (sl.put st v).get st = v := by
  cases st <;> rfl

theorem slots_get_put_other (sl : Slots) {st st' : Stage} (v : Option InFlight) (h : st' ≠ st) :
    (sl.put st v).get st' = sl.get st' := by
  cases st <;> cases st' <;> first | rfl | exact absurd rfl h

section reserve
variable (s : State) (i : Int)
@[simp] theorem reserve_width : (s.reserve i).width = s.width := by unfold State.reserve; split <;> rfl
@[simp] theorem reserve_store : (s.reserve i).store = s.store := by unfold State.reserve; split <;> rfl
@[simp] theorem reserve_regs : (s.reserve i).regs = s.regs := by unfold State.reserve; split <;> rfl
@[simp] theorem reserve_mem : (s.reserve i).mem = s.mem := by unfold State.reserve; split <;> rfl
@[simp] theorem reserve_cursor : (s.reserve i).cursor = s.cursor := by unfold State.reserve; split <;> rfl
@[simp] theorem reserve_issue : (s.reserve i).issue = s.issue := by unfold State.reserve; split <;> rfl
@[simp] theorem reserve_slots : (s.reserve i).slots = s.slots := by unfold State.reserve; split <;> rfl
@[simp] theorem reserve_currentStall : (s.reserve i).currentStall = s.currentStall := by unfold State.reserve; split <;> rfl
@[simp] theorem reserve_pendingStall : (s.reserve i).pendingStall = s.pendingStall := by unfold State.reserve; split <;> rfl
@[simp] theorem reserve_brTaken : (s.reserve i).brTaken = s.brTaken := by unfold State.reserve; split <;> rfl
@[simp] theorem reserve_brTarget : (s.reserve i).brTarget = s.brTarget := by unfold State.reserve; split <;> rfl
@[simp] theorem reserve_cycle : (s.reserve i).cycle = s.cycle := by unfold State.reserve; split <;> rfl
@[simp] theorem reserve_status : (s.reserve i).status = s.status := by unfold State.reserve; split <;> rfl
@[simp] theorem reserve_events : (s.reserve i).events = s.events := by unfold State.reserve; split <;> rfl
@[simp] theorem reserve_trace : (s.reserve i).trace = s.trace := by unfold State.reserve; split <;> rfl
@[simp] theorem reserve_stage : (s.reserve i).stage = s.stage := by unfold State.reserve; split <;> rfl

/-- A reservation sets the bit of its own register (R31). -/
theorem reserve_isReserved (k : Fin Config.numRegs) (h : regIndex? i = some k) : (s.reserve i).reserved[k] = true := by
  simp [State.reserve, h, State.setReserved]

/-- A reservation leaves the bits of other registers (R31). -/
theorem reserve_reserved_other (k : Fin Config.numRegs) (h : regIndex? i ≠ some k) :
    (s.reserve i).reserved[k] = s.reserved[k] := by
  unfold State.reserve
  split
  · rename_i j hj
    have hne : (j : Nat) ≠ (k : Nat) := fun e => h (hj.trans (congrArg some (Fin.ext e)))
    simp [State.setReserved, Vector.getElem_set_ne _ _ hne]
  · rfl
end reserve

section squash
variable (s : State)
@[simp] theorem squash_width : s.squash.width = s.width := by unfold State.squash; split <;> rfl
@[simp] theorem squash_store : s.squash.store = s.store := by unfold State.squash; split <;> rfl
@[simp] theorem squash_regs : s.squash.regs = s.regs := by unfold State.squash; split <;> rfl
@[simp] theorem squash_mem : s.squash.mem = s.mem := by unfold State.squash; split <;> rfl
@[simp] theorem squash_issue : s.squash.issue = s.issue := by unfold State.squash; split <;> rfl
@[simp] theorem squash_reserved : s.squash.reserved = s.reserved := by unfold State.squash; split <;> rfl
@[simp] theorem squash_currentStall : s.squash.currentStall = s.currentStall := by unfold State.squash; split <;> rfl
@[simp] theorem squash_pendingStall : s.squash.pendingStall = s.pendingStall := by unfold State.squash; split <;> rfl
@[simp] theorem squash_cycle : s.squash.cycle = s.cycle := by unfold State.squash; split <;> rfl
@[simp] theorem squash_status : s.squash.status = s.status := by unfold State.squash; split <;> rfl
@[simp] theorem squash_events : s.squash.events = s.events := by unfold State.squash; split <;> rfl
@[simp] theorem squash_trace : s.squash.trace = s.trace := by unfold State.squash; split <;> rfl
@[simp] theorem squash_stage : s.squash.stage = s.stage := by unfold State.squash; split <;> rfl
@[simp] theorem squash_brTaken : s.squash.brTaken = false := by
  unfold State.squash; split <;> simp_all
end squash

section drainTest
variable (s : State)
@[simp] theorem drainTest_width : s.drainTest.width = s.width := by unfold State.drainTest; split <;> rfl
@[simp] theorem drainTest_store : s.drainTest.store = s.store := by unfold State.drainTest; split <;> rfl
@[simp] theorem drainTest_regs : s.drainTest.regs = s.regs := by unfold State.drainTest; split <;> rfl
@[simp] theorem drainTest_mem : s.drainTest.mem = s.mem := by unfold State.drainTest; split <;> rfl
@[simp] theorem drainTest_cursor : s.drainTest.cursor = s.cursor := by unfold State.drainTest; split <;> rfl
@[simp] theorem drainTest_issue : s.drainTest.issue = s.issue := by unfold State.drainTest; split <;> rfl
@[simp] theorem drainTest_slots : s.drainTest.slots = s.slots := by unfold State.drainTest; split <;> rfl
@[simp] theorem drainTest_reserved : s.drainTest.reserved = s.reserved := by unfold State.drainTest; split <;> rfl
@[simp] theorem drainTest_currentStall : s.drainTest.currentStall = s.currentStall := by unfold State.drainTest; split <;> rfl
@[simp] theorem drainTest_pendingStall : s.drainTest.pendingStall = s.pendingStall := by unfold State.drainTest; split <;> rfl
@[simp] theorem drainTest_brTaken : s.drainTest.brTaken = s.brTaken := by unfold State.drainTest; split <;> rfl
@[simp] theorem drainTest_brTarget : s.drainTest.brTarget = s.brTarget := by unfold State.drainTest; split <;> rfl
@[simp] theorem drainTest_cycle : s.drainTest.cycle = s.cycle := by unfold State.drainTest; split <;> rfl
@[simp] theorem drainTest_events : s.drainTest.events = s.events := by unfold State.drainTest; split <;> rfl
@[simp] theorem drainTest_trace : s.drainTest.trace = s.trace := by unfold State.drainTest; split <;> rfl
@[simp] theorem drainTest_stage : s.drainTest.stage = s.stage := by unfold State.drainTest; split <;> rfl
end drainTest

@[simp] theorem andThen_next (s : State) (k : State → Out) : Out.andThen (.next s) k = k s := rfl
@[simp] theorem andThen_fault (r : Fault) (k : State → Out) : Out.andThen (.fault r) k = .fault r := rfl
@[simp] theorem andThen_refused (r : Refusal) (k : State → Out) : Out.andThen (.refused r) k = .refused r := rfl

/-- A sequence answers a next state exactly when both parts do. -/
theorem andThen_eq_next {o : Out} {k : State → Out} {t : State} :
    o.andThen k = .next t ↔ ∃ u, o = .next u ∧ k u = .next t := by
  cases o <;> simp

@[simp] theorem ifRunning_running {s : State} (h : s.status = .running) (k : State → Out) : s.ifRunning k = k s := by
  simp [State.ifRunning, h]

@[simp] theorem ifRunning_stopped {s : State} (h : s.status ≠ .running) (k : State → Out) :
    s.ifRunning k = .next s := by
  simp [State.ifRunning, h]

end Sys2Proof.Machine
end

