-- ==== Sys2Proof/Laws/Operands.lean ====
section
/-! SUPPORT. Register indices and the reservations of an instruction's sources: what the shared operations answer, in terms
of the register of that number. -/

namespace Sys2Proof.Machine

/-- An index is register k exactly when it is k's number (R21, R84). -/
theorem regIndex?_eq_some {i : Int} {k : Fin Config.numRegs} : regIndex? i = some k ↔ i = (k.val : Int) := by
  unfold regIndex?
  have hk := k.2
  simp only [Config.numRegs] at *
  split
  · rename_i h
    simp only [Option.some.injEq, Fin.ext_iff]
    omega
  · rename_i h
    constructor
    · intro e
      cases e
    · intro e
      omega

/-- The index of a register is that register. -/
@[simp] theorem regIndex?_coe (k : Fin Config.numRegs) : regIndex? (k.val : Int) = some k := regIndex?_eq_some.2 rfl

/-- A reserved index is the number of a register whose bit is set (R31). -/
theorem isReserved_eq_true {s : State} {i : Int} :
    s.isReserved i = true ↔ ∃ k, regIndex? i = some k ∧ s.reserved[k] = true := by
  unfold State.isReserved
  cases regIndex? i <;> simp

/-- The hazard test is true exactly when some source is the number of a reserved register (R115). -/
theorem hazard_eq_true {i : Instr} {s : State} :
    hazard i s = true ↔ ∃ r ∈ sources i, ∃ k, regIndex? r = some k ∧ s.reserved[k] = true := by
  simp only [hazard, List.any_eq_true, isReserved_eq_true]

end Sys2Proof.Machine
end

