-- ==== Sys2Proof/Laws/Memory.lean ====
section
/-! SUPPORT. The data memory: what a write leaves, and that every operation keeps the canonical form. -/

namespace Sys2Proof.Machine

/-- A write leaves every other cell as it was (R52). -/
theorem read_write_other (m : Memory) {a b : Nat} (v : Word) (h : b ≠ a) :
    Memory.read (Memory.write m a v) b = Memory.read m b := by
  induction m with
  | nil => simp only [Memory.write]; split <;> simp [Memory.read, h]
  | cons e m ih =>
    obtain ⟨c, u⟩ := e
    simp only [Memory.write]
    split
    · split <;> simp [Memory.read, h]
    · split
      · rename_i hac
        subst hac
        split <;> simp [Memory.read, h]
      · simp [Memory.read, ih]

/-- Nothing below the lower bound of a canonical list is listed. -/
theorem read_below {lo : Nat} {m : Memory} (hw : Memory.wfFrom lo m = true) {a : Nat} (h : a < lo) :
    Memory.read m a = 0 := by
  induction m generalizing lo with
  | nil => rfl
  | cons e m ih =>
    obtain ⟨c, u⟩ := e
    simp only [Memory.wfFrom, Bool.and_eq_true, decide_eq_true_eq] at hw
    obtain ⟨⟨⟨⟨h1, -⟩, -⟩, -⟩, h5⟩ := hw
    simp only [Memory.read]
    rw [if_neg (by omega), ih h5 (by omega)]

/-- The canonical form from a bound on is one from every smaller bound on. -/
theorem wfFrom_mono {lo lo' : Nat} {m : Memory} (hw : Memory.wfFrom lo m = true) (h : lo' ≤ lo) :
    Memory.wfFrom lo' m = true := by
  cases m with
  | nil => rfl
  | cons e m =>
    obtain ⟨c, u⟩ := e
    simp only [Memory.wfFrom, Bool.and_eq_true, decide_eq_true_eq] at hw ⊢
    obtain ⟨⟨⟨⟨h1, h2⟩, h3⟩, h4⟩, h5⟩ := hw
    exact ⟨⟨⟨⟨by omega, h2⟩, h3⟩, h4⟩, h5⟩

/-- A write at or above the bound keeps the canonical form from the bound on. -/
theorem wfFrom_write {lo : Nat} {m : Memory} (hw : Memory.wfFrom lo m = true) {a : Nat} (hlo : lo ≤ a)
    (h8 : a % Config.wordBytes = 0) (hb : a < Config.memBytes) (v : Word) :
    Memory.wfFrom lo (Memory.write m a v) = true := by
  induction m generalizing lo with
  | nil =>
    simp only [Memory.write]
    split
    · rfl
    · rename_i hv
      simp [Memory.wfFrom, hlo, h8, hb, hv]
  | cons e m ih =>
    obtain ⟨c, u⟩ := e
    have hw' := hw
    simp only [Memory.wfFrom, Bool.and_eq_true, decide_eq_true_eq] at hw'
    obtain ⟨⟨⟨⟨h1, h2⟩, h3⟩, h4⟩, h5⟩ := hw'
    simp only [Memory.write]
    split
    · rename_i hac
      split
      · exact hw
      · rename_i hv
        simp only [Memory.wfFrom, Bool.and_eq_true, decide_eq_true_eq]
        exact ⟨⟨⟨⟨hlo, h8⟩, hb⟩, hv⟩, ⟨⟨⟨⟨by omega, h2⟩, h3⟩, h4⟩, h5⟩⟩
    · split
      · rename_i hac
        subst hac
        split
        · exact wfFrom_mono h5 (by omega)
        · rename_i hv
          simp only [Memory.wfFrom, Bool.and_eq_true, decide_eq_true_eq]
          exact ⟨⟨⟨⟨h1, h8⟩, hb⟩, hv⟩, h5⟩
      · simp only [Memory.wfFrom, Bool.and_eq_true, decide_eq_true_eq]
        exact ⟨⟨⟨⟨h1, h2⟩, h3⟩, h4⟩, ih h5 (by omega)⟩

/-- A write to a cell's address keeps the canonical form. -/
theorem write_wf {m : Memory} (hw : Memory.wf m = true) {a : Nat} (h8 : a % Config.wordBytes = 0)
    (hb : a < Config.memBytes) (v : Word) : Memory.wf (Memory.write m a v) = true :=
  wfFrom_write hw (Nat.zero_le a) h8 hb v

/-- A cell of a canonical memory that is written reads as the value written (R52). -/
theorem read_write_same_from {lo : Nat} {m : Memory} (hw : Memory.wfFrom lo m = true) (a : Nat) (v : Word) :
    Memory.read (Memory.write m a v) a = v := by
  induction m generalizing lo with
  | nil =>
    simp only [Memory.write]
    split <;> simp_all [Memory.read]
  | cons e m ih =>
    obtain ⟨c, u⟩ := e
    have hw' := hw
    simp only [Memory.wfFrom, Bool.and_eq_true, decide_eq_true_eq] at hw'
    obtain ⟨⟨⟨⟨h1, h2⟩, h3⟩, h4⟩, h5⟩ := hw'
    simp only [Memory.write]
    split
    · rename_i hac
      split
      · rename_i hv
        rw [hv]
        simp only [Memory.read]
        rw [if_neg (by omega), read_below h5 (by omega)]
      · simp [Memory.read]
    · split
      · rename_i hac
        subst hac
        split
        · rename_i hv
          rw [hv, read_below h5 (by omega)]
        · simp [Memory.read]
      · rename_i h6 h7
        simp only [Memory.read]
        rw [if_neg h7, ih h5]

/-- The memory of the reset state is canonical: nothing is listed. -/
theorem reset_mem_wf : Memory.wf State.reset.mem = true := rfl

/-- What the address check lets through is the address of a cell (R51). -/
theorem cellAddress?_some {a : Int} {n : Nat} (h : cellAddress? a = some n) :
    n % Config.wordBytes = 0 ∧ n < Config.memBytes ∧ (n : Int) = a := by
  unfold cellAddress? at h
  split at h
  · rename_i hc
    obtain ⟨h1, h2, h3⟩ := hc
    cases h
    simp only [Config.wordBytes, Config.memBytes] at *
    omega
  · cases h

end Sys2Proof.Machine
end

