-- ==== Sys2Proof/Laws/Stages.lean ====
section
/-! SUPPORT. One lemma per shared operation that says what it can do: the own work of an instruction, the work of a stage,
and the outcomes of `exec` by stage. The proofs about a step cite these instead of unfolding the meanings. -/

namespace Sys2Proof.Machine

/-- What is an instruction's own at ID, EX and MEM2, gathered from the meanings. -/
def ownOf (i : Instr) (W : Nat) : OwnWork :=
  match i with
  | .load rd _ offset => ⟨fun t => t.reserve rd, noWork, loadAtMem2 rd offset⟩
  | .store _ _ offset => ⟨fun t => t, noWork, storeAtMem2 offset⟩
  | .bnez _ target => ⟨fun t => t, bnezAtEx target, noWork⟩
  | .add rd _ _ => ⟨fun t => t, aluAtEx (wordAdd W) rd, noWork⟩
  | .addi rd _ _ => ⟨fun t => t, aluAtEx (wordAdd W) rd, noWork⟩
  | .sub rd _ _ => ⟨fun t => t, aluAtEx (wordSub W) rd, noWork⟩
  | .subi rd _ _ => ⟨fun t => t, aluAtEx (wordSub W) rd, noWork⟩
  | .nop => ⟨fun t => t, noWork, noWork⟩

/-- Every meaning but NOP's is `perform` with the instruction's own work. -/
theorem exec_eq_perform {i : Instr} (h : i ≠ .nop) (s : State) : exec i s = s.perform i (ownOf i s.width) := by
  cases i <;> first | rfl | exact absurd rfl h

/-- At IF1 an instruction other than NOP is fetched into slot 0 (R124). -/
theorem exec_if1 {i : Instr} (h : i ≠ .nop) {s : State} (hs : s.stage = .if1) :
    exec i s = .next (s.if1Work (some i)) := by
  rw [exec_eq_perform h]; simp [State.perform, hs]

/-- At IF1 the NOP sentinel is fetched as EMPTY (R124, R190). -/
theorem exec_nop_if1 {s : State} (hs : s.stage = .if1) : exec .nop s = .next (s.if1Work none) := by
  simp [exec, execNop, State.emptyWork, hs]

/-- After IF1 the occupant of the stage's slot does the stage's work. -/
theorem exec_occupant {s : State} {f : InFlight} (hs : s.stage ≠ .if1) (hf : s.slots.get s.stage = some f)
    (hn : f.ins ≠ .nop) : exec f.ins s = s.flightWork (ownOf f.ins s.width) f := by
  rw [exec_eq_perform hn]; simp [State.perform, hs, hf]

/-- After IF1 the sentinel does the work of an EMPTY slot. -/
theorem exec_empty {s : State} (hs : s.stage ≠ .if1) (hf : s.slots.get s.stage = none) :
    exec .nop s = .next s.emptyWork := by
  simp [exec, execNop, hs, hf]

/-- After IF1, a meaning that answers a next state is that of the slot's occupant, or of the sentinel for an EMPTY
slot. -/
theorem exec_next_occupant {i : Instr} {s t : State} (hs : s.stage ≠ .if1) (h : exec i s = .next t) :
    (i = .nop ∧ s.slots.get s.stage = none ∧ t = s.emptyWork) ∨
    (i ≠ .nop ∧ ∃ f, s.slots.get s.stage = some f ∧ f.ins = i ∧ s.flightWork (ownOf i s.width) f = .next t) := by
  by_cases hi : i = .nop
  · subst hi
    cases hf : s.slots.get s.stage with
    | none =>
      rw [exec_empty hs hf] at h
      exact .inl ⟨rfl, rfl, by simpa using h.symm⟩
    | some f => simp [exec, execNop, hs, hf] at h
  · right
    refine ⟨hi, ?_⟩
    rw [exec_eq_perform hi] at h
    simp only [State.perform, if_neg hs] at h
    split at h
    · rename_i f hf
      split at h
      · rename_i hfi
        exact ⟨f, hf, hfi, h⟩
      · cases h
    · cases h

/-! ### The own work at EX and MEM2 -/

/-- An ALU instruction that answers a next state writes its destination (R181). -/
theorem aluAtEx_next {op : Word → Word → Word} {rd : Int} {f : InFlight} {s t : State}
    (h : aluAtEx op rd f s = .next t) :
    ∃ k a b, regIndex? rd = some k ∧ f.rsv = some a ∧ secondOperand s.width f = some b ∧
      t = s.writeReg k (op a b) := by
  unfold aluAtEx at h
  cases h1 : regIndex? rd <;> cases h2 : f.rsv <;> cases h3 : secondOperand s.width f <;> simp [h1, h2, h3] at h
  exact ⟨_, _, _, rfl, rfl, rfl, h.symm⟩

/-- What the own work at EX can do (R109): nothing for LOAD, STORE and NOP, the branch latch for BRANCH_NE_ZERO, one
register for the ALU instructions. -/
theorem ownEx_cases {f : InFlight} {W : Nat} {s t : State} (h : (ownOf f.ins W).ex f s = .next t) :
    ((rdField f.ins = none ∨ ∃ rd rs off, f.ins = .load rd rs off) ∧ (∀ rs tg, f.ins ≠ .bnez rs tg) ∧ t = s) ∨
    (∃ rs tg v, f.ins = .bnez rs tg ∧ f.rsv = some v ∧ t = if notZero v then s.takeBranch tg else s) ∨
    (∃ (op : Word → Word → Word) (k : Fin Config.numRegs) (a b : Word),
      (((∃ rd rs rt, f.ins = .add rd rs rt ∧ regIndex? rd = some k) ∨
        (∃ rd rs imm, f.ins = .addi rd rs imm ∧ regIndex? rd = some k)) ∧ op = wordAdd W ∨
       ((∃ rd rs rt, f.ins = .sub rd rs rt ∧ regIndex? rd = some k) ∨
        (∃ rd rs imm, f.ins = .subi rd rs imm ∧ regIndex? rd = some k)) ∧ op = wordSub W) ∧
      f.rsv = some a ∧ secondOperand s.width f = some b ∧ t = s.writeReg k (op a b)) := by
  obtain ⟨i, n, rv, tv⟩ := f
  cases i with
  | load rd rs off => left; simp_all [ownOf, noWork]
  | store rt rs off => left; simp_all [ownOf, noWork, rdField]
  | nop => left; simp_all [ownOf, noWork, rdField]
  | bnez rs tg =>
    right; left
    cases rv with
    | none => cases h
    | some v => exact ⟨rs, tg, v, rfl, rfl, by simpa [ownOf, bnezAtEx] using h.symm⟩
  | add rd rs rt =>
    right; right
    obtain ⟨k, a, b, h1, h2, h3, h4⟩ := aluAtEx_next h
    exact ⟨_, k, a, b, .inl ⟨.inl ⟨rd, rs, rt, rfl, h1⟩, rfl⟩, h2, h3, h4⟩
  | addi rd rs imm =>
    right; right
    obtain ⟨k, a, b, h1, h2, h3, h4⟩ := aluAtEx_next h
    exact ⟨_, k, a, b, .inl ⟨.inr ⟨rd, rs, imm, rfl, h1⟩, rfl⟩, h2, h3, h4⟩
  | sub rd rs rt =>
    right; right
    obtain ⟨k, a, b, h1, h2, h3, h4⟩ := aluAtEx_next h
    exact ⟨_, k, a, b, .inr ⟨.inl ⟨rd, rs, rt, rfl, h1⟩, rfl⟩, h2, h3, h4⟩
  | subi rd rs imm =>
    right; right
    obtain ⟨k, a, b, h1, h2, h3, h4⟩ := aluAtEx_next h
    exact ⟨_, k, a, b, .inr ⟨.inr ⟨rd, rs, imm, rfl, h1⟩, rfl⟩, h2, h3, h4⟩

/-- What the own work at MEM2 can do (R107): the register write and release of a LOAD, the memory write of a STORE, the
fatal error of a bad address, and nothing for the others. -/
theorem ownMem2_cases {f : InFlight} {W : Nat} {s t : State} (h : (ownOf f.ins W).mem2 f s = .next t) :
    ((∀ rd rs off, f.ins ≠ .load rd rs off) ∧ (∀ rt rs off, f.ins ≠ .store rt rs off) ∧ t = s) ∨
    (∃ rd rs off k base a, f.ins = .load rd rs off ∧ regIndex? rd = some k ∧ f.rsv = some base ∧
      cellAddress? (effectiveAddress s.width base off) = some a ∧
      t = (s.writeReg k (s.memRead a)).setReserved k false) ∨
    (∃ rt rs off base v a, f.ins = .store rt rs off ∧ f.rsv = some base ∧ f.rtv = some v ∧
      cellAddress? (effectiveAddress s.width base off) = some a ∧ t = s.memWrite a v) ∨
    (∃ off base, ((∃ rd rs, f.ins = .load rd rs off) ∨ ∃ rt rs, f.ins = .store rt rs off) ∧ f.rsv = some base ∧
      cellAddress? (effectiveAddress s.width base off) = none ∧
      t = s.raiseFatal ⟨.memIndex, f.label, .address, effectiveAddress s.width base off⟩) := by
  obtain ⟨i, n, rv, tv⟩ := f
  cases i with
  | bnez rs tg => left; simp_all [ownOf, noWork]
  | add rd rs rt => left; simp_all [ownOf, noWork]
  | addi rd rs rt => left; simp_all [ownOf, noWork]
  | sub rd rs rt => left; simp_all [ownOf, noWork]
  | subi rd rs rt => left; simp_all [ownOf, noWork]
  | nop => left; simp_all [ownOf, noWork]
  | load rd rs off =>
    simp only [ownOf, loadAtMem2] at h
    cases h1 : regIndex? rd <;> cases rv <;> simp only [h1, reduceCtorEq] at h
    rename_i k base
    cases ha : cellAddress? (effectiveAddress s.width base off) <;> simp only [ha, Host.Outcome.next.injEq] at h
    · exact .inr (.inr (.inr ⟨off, base, .inl ⟨rd, rs, rfl⟩, rfl, ha, h.symm⟩))
    · exact .inr (.inl ⟨rd, rs, off, k, base, _, rfl, h1, rfl, ha, h.symm⟩)
  | store rt rs off =>
    simp only [ownOf, storeAtMem2] at h
    cases rv <;> cases tv <;> simp only [reduceCtorEq] at h
    rename_i base v
    cases ha : cellAddress? (effectiveAddress s.width base off) <;> simp only [ha, Host.Outcome.next.injEq] at h
    · exact .inr (.inr (.inr ⟨off, base, .inr ⟨rt, rs, rfl⟩, rfl, ha, h.symm⟩))
    · exact .inr (.inr (.inl ⟨rt, rs, off, base, v, _, rfl, rfl, rfl, ha, h.symm⟩))

/-- What an instruction does on entering ID: LOAD reserves its destination, the others nothing (R113). -/
theorem ownEnter_cases (i : Instr) (W : Nat) (s : State) :
    (∃ rd rs off, i = .load rd rs off ∧ (ownOf i W).enter s = s.reserve rd) ∨
    ((∀ rd rs off, i ≠ .load rd rs off) ∧ (ownOf i W).enter s = s) := by
  cases i with
  | load rd rs off => exact .inl ⟨rd, rs, off, rfl, rfl⟩
  | store _ _ _ => exact .inr ⟨by simp, rfl⟩
  | bnez _ _ => exact .inr ⟨by simp, rfl⟩
  | add _ _ _ => exact .inr ⟨by simp, rfl⟩
  | addi _ _ _ => exact .inr ⟨by simp, rfl⟩
  | sub _ _ _ => exact .inr ⟨by simp, rfl⟩
  | subi _ _ _ => exact .inr ⟨by simp, rfl⟩
  | nop => exact .inr ⟨by simp, rfl⟩

/-- What ID does with an occupied slot (R110): a fatal error, a stall, or the way to EX. -/
theorem idWork_cases (s : State) (enter : State → State) (f : InFlight) :
    (∃ field v, firstBadField f.ins = some (field, v) ∧
      s.idWork enter f = s.raiseFatal ⟨.regIndex, f.label, field, v⟩) ∨
    (firstBadField f.ins = none ∧ hazard f.ins ((enter s).emit f.label (s.stageTag .id)) = true ∧
      s.idWork enter f = (((enter s).emit f.label (s.stageTag .id)).setSlot .ex none).setPending true) ∨
    (firstBadField f.ins = none ∧ hazard f.ins ((enter s).emit f.label (s.stageTag .id)) = false ∧
      s.idWork enter f = (((enter s).emit f.label (s.stageTag .id)).setSlot .ex
        (some (resolve ((enter s).emit f.label (s.stageTag .id)) f))).setPending false) := by
  unfold State.idWork
  split
  · rename_i field v h
    exact .inl ⟨field, v, h, rfl⟩
  · rename_i h
    simp only
    split
    · rename_i hh
      exact .inr (.inl ⟨h, hh, rfl⟩)
    · rename_i hh
      exact .inr (.inr ⟨h, by simpa using hh, rfl⟩)

end Sys2Proof.Machine
end

