-- ==== Sys2Proof/Laws/Cycle.lean ====
section
/-! SUPPORT. What a cycle can do: one lemma per stage of the cycle, and the chain of them that a completed cycle is. The
proofs about `step` start from `step_next_cases`. -/

namespace Sys2Proof.Machine

/-- The event a slot emits with a tag: one for an occupied slot, none for an EMPTY one (R104). -/
def slotEvents (v : Option InFlight) (g : Tag) : List Event :=
  match v with
  | some f => [⟨f.label, g⟩]
  | none => []

/-- A stage that answers a next state did the work of its slot's occupant, or of an EMPTY slot. -/
theorem runStage_next {s u : State} {st : Stage} (hr : s.status = .running) (hst : st ≠ .if1)
    (h : s.runStage st = .next u) :
    (s.slots.get st = none ∧ u = (s.atStage st).emptyWork) ∨
    ∃ f, s.slots.get st = some f ∧ f.ins ≠ .nop ∧ (s.atStage st).flightWork (ownOf f.ins s.width) f = .next u := by
  simp only [State.runStage, ifRunning_running hr] at h
  rcases exec_next_occupant (s := s.atStage st) hst h with ⟨-, hf, hu⟩ | ⟨hi, f, hf, hfi, hw⟩
  · exact .inl ⟨hf, hu⟩
  · have hf' : s.slots.get st = some f := hf
    rw [hf'] at hw hi
    exact .inr ⟨f, hf', hi, hw⟩

/-- WB (R105). -/
theorem runStage_wb {s u : State} (hr : s.status = .running) (h : s.runStage .wb = .next u) :
    u = { s with stage := .wb, events := s.events ++ slotEvents s.slots.slot7 .wb } := by
  rcases runStage_next hr (by decide) h with ⟨hf, rfl⟩ | ⟨f, hf, -, hw⟩ <;>
    simp only [slots_get_wb] at hf <;>
    simp_all [State.emptyWork, State.flightWork, State.atStage, State.emit, slotEvents]

/-- MEM3 (R106). -/
theorem runStage_mem3 {s u : State} (hr : s.status = .running) (h : s.runStage .mem3 = .next u) :
    u = { s with
      stage := .mem3, events := s.events ++ slotEvents s.slots.slot6 .mem3
      slots := { s.slots with slot7 := s.slots.slot6 } } := by
  rcases runStage_next hr (by decide) h with ⟨hf, rfl⟩ | ⟨f, hf, -, hw⟩ <;>
    simp only [slots_get_mem3] at hf <;>
    simp_all [State.emptyWork, State.flightWork, State.atStage, State.emit, State.setSlot, slotEvents]

/-- MEM1 (R108). -/
theorem runStage_mem1 {s u : State} (hr : s.status = .running) (h : s.runStage .mem1 = .next u) :
    u = { s with
      stage := .mem1, events := s.events ++ slotEvents s.slots.slot4 .mem1
      slots := { s.slots with slot5 := s.slots.slot4 } } := by
  rcases runStage_next hr (by decide) h with ⟨hf, rfl⟩ | ⟨f, hf, -, hw⟩ <;>
    simp only [slots_get_mem1] at hf <;>
    simp_all [State.emptyWork, State.flightWork, State.atStage, State.emit, State.setSlot, slotEvents]

/-- IF2 (R122). -/
theorem runStage_if2 {s u : State} (hr : s.status = .running) (h : s.runStage .if2 = .next u) :
    u = { s with
      stage := .if2, events := s.events ++ slotEvents s.slots.slot1 (s.stageTag .if2)
      slots := if s.pendingStall then s.slots else { s.slots with slot2 := s.slots.slot1 } } := by
  rcases runStage_next hr (by decide) h with ⟨hf, rfl⟩ | ⟨f, hf, -, hw⟩ <;>
    simp only [slots_get_if2] at hf
  · cases hp : s.pendingStall <;>
      simp [State.emptyWork, State.if2Work, State.atStage, State.setSlot, slotEvents, hf, hp]
  · simp only [State.flightWork, atStage_stage, Host.Outcome.next.injEq] at hw
    subst hw
    cases hp : s.pendingStall <;>
      simp [State.if2Work, State.atStage, State.emit, State.setSlot, State.stageTag, slotEvents, hf, hp]

/-- MEM2 (R107): the own work of the occupant, and, unless that was a fatal error, its event and the move to slot 6. -/
theorem runStage_mem2 {s u : State} (hr : s.status = .running) (h : s.runStage .mem2 = .next u) :
    (s.slots.slot5 = none ∧ u = (s.atStage .mem2).setSlot .mem3 none) ∨
    ∃ f v, s.slots.slot5 = some f ∧ f.ins ≠ .nop ∧ (ownOf f.ins s.width).mem2 f (s.atStage .mem2) = .next v ∧
      ((v.status ≠ .running ∧ u = v) ∨
       (v.status = .running ∧ u = (v.emit f.label .mem2).setSlot .mem3 (some f))) := by
  rcases runStage_next hr (by decide) h with ⟨hf, rfl⟩ | ⟨f, hf, hn, hw⟩ <;>
    simp only [slots_get_mem2] at hf
  · exact .inl ⟨hf, rfl⟩
  · simp only [State.flightWork, atStage_stage] at hw
    obtain ⟨v, hv, hu⟩ := andThen_eq_next.1 hw
    refine .inr ⟨f, v, hf, hn, hv, ?_⟩
    by_cases hs : v.status = .running
    · rw [ifRunning_running hs] at hu
      exact .inr ⟨hs, (Host.Outcome.next.inj hu).symm⟩
    · rw [ifRunning_stopped hs] at hu
      exact .inl ⟨hs, (Host.Outcome.next.inj hu).symm⟩

/-- EX (R109): the own work of the occupant, and, unless the run was stopped, its event and the move to slot 4. -/
theorem runStage_ex {s u : State} (hr : s.status = .running) (h : s.runStage .ex = .next u) :
    (s.slots.slot3 = none ∧ u = (s.atStage .ex).setSlot .mem1 none) ∨
    ∃ f v, s.slots.slot3 = some f ∧ f.ins ≠ .nop ∧ (ownOf f.ins s.width).ex f (s.atStage .ex) = .next v ∧
      ((v.status ≠ .running ∧ u = v) ∨
       (v.status = .running ∧ u = (v.emit f.label .ex).setSlot .mem1 (some f))) := by
  rcases runStage_next hr (by decide) h with ⟨hf, rfl⟩ | ⟨f, hf, hn, hw⟩ <;>
    simp only [slots_get_ex] at hf
  · exact .inl ⟨hf, rfl⟩
  · simp only [State.flightWork, atStage_stage] at hw
    obtain ⟨v, hv, hu⟩ := andThen_eq_next.1 hw
    refine .inr ⟨f, v, hf, hn, hv, ?_⟩
    by_cases hs : v.status = .running
    · rw [ifRunning_running hs] at hu
      exact .inr ⟨hs, (Host.Outcome.next.inj hu).symm⟩
    · rw [ifRunning_stopped hs] at hu
      exact .inl ⟨hs, (Host.Outcome.next.inj hu).symm⟩

/-- ID (R110, R111). -/
theorem runStage_id {s u : State} (hr : s.status = .running) (h : s.runStage .id = .next u) :
    (s.slots.slot2 = none ∧ u = (s.atStage .id).idEmpty) ∨
    ∃ f, s.slots.slot2 = some f ∧ f.ins ≠ .nop ∧
      u = (s.atStage .id).idWork (ownOf f.ins s.width).enter f := by
  rcases runStage_next hr (by decide) h with ⟨hf, rfl⟩ | ⟨f, hf, hn, hw⟩ <;>
    simp only [slots_get_id] at hf
  · exact .inl ⟨hf, rfl⟩
  · simp only [State.flightWork, atStage_stage, Host.Outcome.next.injEq] at hw
    exact .inr ⟨f, hf, hn, hw.symm⟩

/-- The content a fetched instruction gives slot 0: none for the NOP sentinel (R124). -/
def fetchContent (i : Instr) : Option Instr := if i = .nop then none else some i

/-- IF1 (R124). -/
theorem runFetch_next {s u : State} (hr : s.status = .running) (h : s.runFetch = .next u) :
    ∃ i, decode s.fetched = .ok i ∧ u = (s.atStage .if1).if1Work (fetchContent i) := by
  simp only [State.runFetch, ifRunning_running hr] at h
  split at h
  · rename_i i hd
    refine ⟨i, hd, ?_⟩
    by_cases hi : i = .nop
    · subst hi
      rw [exec_nop_if1 rfl] at h
      simpa [fetchContent] using h.symm
    · rw [exec_if1 hi rfl] at h
      simpa [fetchContent, hi] using h.symm
  · cases h

/-- After a fatal error nothing of the cycle runs (R201). -/
theorem stopped_passes {s : State} (hs : s.status ≠ .running) :
    (∀ st, s.runStage st = .next s) ∧ s.runFetch = .next s ∧ s.endCycle = .next s := by
  simp [State.runStage, State.runFetch, State.endCycle, State.ifRunning, hs]

/-- The intermediate states of a cycle that no fatal error stopped: after WB, MEM3, MEM2, MEM1, EX, ID, IF2 and IF1, each
Running, and the end of the cycle (R100, R128). -/
structure CycleChain (s t : State) (wb mem3 mem2 mem1 ex id if2 if1 : State) : Prop where
  wb_eq : wb = { s with events := slotEvents s.slots.slot7 .wb, stage := .wb }
  mem3_eq : mem3 = { wb with
    stage := .mem3, events := wb.events ++ slotEvents wb.slots.slot6 .mem3
    slots := { wb.slots with slot7 := wb.slots.slot6 } }
  mem2_next : mem3.runStage .mem2 = .next mem2
  mem2_running : mem2.status = .running
  mem1_eq : mem1 = { mem2 with
    stage := .mem1, events := mem2.events ++ slotEvents mem2.slots.slot4 .mem1
    slots := { mem2.slots with slot5 := mem2.slots.slot4 } }
  ex_next : mem1.runStage .ex = .next ex
  ex_running : ex.status = .running
  id_next : ex.runStage .id = .next id
  id_running : id.status = .running
  if2_eq : if2 = { id with
    stage := .if2, events := id.events ++ slotEvents id.slots.slot1 (id.stageTag .if2)
    slots := if id.pendingStall then id.slots else { id.slots with slot2 := id.slots.slot1 } }
  if1_next : ∃ i, decode if2.fetched = .ok i ∧ if1 = (if2.atStage .if1).if1Work (fetchContent i)
  end_eq : t = if1.squash.latchStall.record.drainTest

@[simp] theorem if1Work_status (s : State) (c : Option Instr) : (s.if1Work c).status = s.status := by
  simp only [State.if1Work]; split <;> split <;> rfl

/-- A cycle is stopped by a fatal error at MEM2, EX or ID, or it is a whole chain. -/
theorem runCycle_next {s t : State} (hr : s.status = .running) (h : s.runCycle = .next t) :
    (∃ wb mem3, wb = { s with events := slotEvents s.slots.slot7 .wb, stage := .wb } ∧
      mem3 = { wb with
        stage := .mem3, events := wb.events ++ slotEvents wb.slots.slot6 .mem3
        slots := { wb.slots with slot7 := wb.slots.slot6 } } ∧
      ((mem3.runStage .mem2 = .next t ∧ t.status ≠ .running) ∨
       ∃ mem2 mem1, mem3.runStage .mem2 = .next mem2 ∧ mem2.status = .running ∧
        mem1 = { mem2 with
          stage := .mem1, events := mem2.events ++ slotEvents mem2.slots.slot4 .mem1
          slots := { mem2.slots with slot5 := mem2.slots.slot4 } } ∧
        ((mem1.runStage .ex = .next t ∧ t.status ≠ .running) ∨
         ∃ ex, mem1.runStage .ex = .next ex ∧ ex.status = .running ∧ ex.runStage .id = .next t ∧
          t.status ≠ .running))) ∨
    ∃ wb mem3 mem2 mem1 ex id if2 if1, CycleChain s t wb mem3 mem2 mem1 ex id if2 if1 := by
  simp only [State.runCycle, State.backStages] at h
  obtain ⟨if2, hb, h⟩ := andThen_eq_next.1 h
  obtain ⟨if1, hf, he⟩ := andThen_eq_next.1 h
  obtain ⟨wb, hwb, hb⟩ := andThen_eq_next.1 hb
  have ewb := runStage_wb (s := { s with events := [] }) hr hwb
  simp only [List.nil_append] at ewb
  have rwb : wb.status = .running := by rw [ewb]; exact hr
  obtain ⟨mem3, hmem3, hb⟩ := andThen_eq_next.1 hb
  have emem3 := runStage_mem3 rwb hmem3
  have rmem3 : mem3.status = .running := by rw [emem3]; exact rwb
  obtain ⟨mem2, hmem2, hb⟩ := andThen_eq_next.1 hb
  by_cases rmem2 : mem2.status = .running
  swap
  · obtain ⟨ps, pf, pe⟩ := stopped_passes rmem2
    simp only [ps, andThen_next, Host.Outcome.next.injEq] at hb
    subst hb
    rw [pf] at hf; cases hf
    rw [pe] at he; cases he
    exact .inl ⟨wb, mem3, ewb, emem3, .inl ⟨hmem2, rmem2⟩⟩
  obtain ⟨mem1, hmem1, hb⟩ := andThen_eq_next.1 hb
  have emem1 := runStage_mem1 rmem2 hmem1
  have rmem1 : mem1.status = .running := by rw [emem1]; exact rmem2
  obtain ⟨ex, hex, hb⟩ := andThen_eq_next.1 hb
  by_cases rex : ex.status = .running
  swap
  · obtain ⟨ps, pf, pe⟩ := stopped_passes rex
    simp only [ps, andThen_next, Host.Outcome.next.injEq] at hb
    subst hb
    rw [pf] at hf; cases hf
    rw [pe] at he; cases he
    exact .inl ⟨wb, mem3, ewb, emem3, .inr ⟨mem2, mem1, hmem2, rmem2, emem1, .inl ⟨hex, rex⟩⟩⟩
  obtain ⟨id, hid, hb⟩ := andThen_eq_next.1 hb
  by_cases rid : id.status = .running
  swap
  · obtain ⟨ps, pf, pe⟩ := stopped_passes rid
    simp only [ps, Host.Outcome.next.injEq] at hb
    subst hb
    rw [pf] at hf; cases hf
    rw [pe] at he; cases he
    exact .inl ⟨wb, mem3, ewb, emem3, .inr ⟨mem2, mem1, hmem2, rmem2, emem1, .inr ⟨ex, hex, rex, hid, rid⟩⟩⟩
  have eif2 := runStage_if2 rid hb
  have rif2 : if2.status = .running := by rw [eif2]; exact rid
  have hif1 := runFetch_next rif2 hf
  have rif1 : if1.status = .running := by
    obtain ⟨i, -, hi⟩ := hif1
    rw [hi, if1Work_status]
    exact rif2
  simp only [State.endCycle, ifRunning_running rif1, Host.Outcome.next.injEq] at he
  exact .inr ⟨wb, mem3, mem2, mem1, ex, id, if2, if1,
    ⟨ewb, emem3, hmem2, rmem2, emem1, hex, rex, hid, rid, eif2, hif1, he.symm⟩⟩

/-- What a step that answers a next state can be (R101): a Done engine that stays as it is, the end of a run whose cursor
has left the store, or a cycle. -/
theorem step_next_cases {s t : State} (h : step s = .next t) :
    (∃ why, s.status = .done why ∧ t = s) ∨
    (s.status = .running ∧ ¬ s.cursorInStore ∧ t = { s with status := .done .cursorOut }) ∨
    (s.status = .running ∧ s.cursorInStore ∧ s.runCycle = .next t) := by
  simp only [step, State.iterate] at h
  split at h
  · rename_i hr
    split at h
    · rename_i hc
      exact .inr (.inr ⟨hr, hc, h⟩)
    · rename_i hc
      exact .inr (.inl ⟨hr, hc, (Host.Outcome.next.inj h).symm⟩)
  · rename_i why hd
    exact .inl ⟨why, hd, (Host.Outcome.next.inj h).symm⟩
  · cases h

/-- A Running engine with its cursor in the store runs a cycle. -/
theorem step_running {s : State} (hr : s.status = .running) (hc : s.cursorInStore) : step s = s.runCycle := by
  simp only [step, State.iterate, hr, if_pos hc]

end Sys2Proof.Machine
end

