-- ==== Sys2Proof/Laws/PerInstr.lean ====
section
/-! SUPPORT. The per-instruction family: the record of an instruction has exactly the fields of its format (R73). -/

namespace Sys2Proof.Laws.EncodeShape

/-- The record of i has an rt field exactly when i's format uses one, and its code is the code of i (R72, R73, R78
point 2). -/
def Statement (i : Instr) : Prop := (encode i).shapeOk = true ∧ (encode i).code = i.code

theorem load (rd rs offset : Int) : Statement (.load rd rs offset) := ⟨rfl, rfl⟩

theorem store (rt rs offset : Int) : Statement (.store rt rs offset) := ⟨rfl, rfl⟩

theorem bnez (rs target : Int) : Statement (.bnez rs target) := ⟨rfl, rfl⟩

theorem add (rd rs rt : Int) : Statement (.add rd rs rt) := ⟨rfl, rfl⟩

theorem addi (rd rs imm : Int) : Statement (.addi rd rs imm) := ⟨rfl, rfl⟩

theorem sub (rd rs rt : Int) : Statement (.sub rd rs rt) := ⟨rfl, rfl⟩

theorem subi (rd rs imm : Int) : Statement (.subi rd rs imm) := ⟨rfl, rfl⟩

theorem nop : Statement .nop := ⟨rfl, rfl⟩

end Sys2Proof.Laws.EncodeShape
end

