-- ==== Sys2Proof/Laws/Resolved.lean ====
section
/-! SUPPORT. What passing ID gives an instruction (R112, R118), and that its own work at EX and MEM2 then always has a next
state; and the frames of the work that all instructions share at IF1, IF2 and ID. -/

namespace Sys2Proof.Machine

/-- The fields of a resolved instruction: rs is read, rt is read exactly when it is a register (R29, R118). -/
theorem resolved_spec {W : Nat} {f : InFlight} (h : InFlight.resolved W f = true) :
    f.ins ≠ .nop ∧ firstBadField f.ins = none ∧ (∃ a, f.rsv = some a ∧ wordOk W a = true) ∧
    (∀ r, rtField f.ins = some r → ∃ b, f.rtv = some b ∧ wordOk W b = true) ∧
    (rtField f.ins = none → f.rtv = none) := by
  simp only [InFlight.resolved, Bool.and_eq_true, Option.isNone_iff_eq_none, bne_iff_ne, beq_iff_eq] at h
  obtain ⟨⟨⟨⟨⟨h1, h2⟩, h3⟩, h4⟩, h5⟩, h6⟩ := h
  obtain ⟨a, ha⟩ := Option.isSome_iff_exists.1 h3
  refine ⟨h1, h2, ⟨a, ha, by simpa [ha] using h5⟩, fun r hr => ?_, fun hr => ?_⟩
  · rw [hr] at h4
    obtain ⟨b, hb⟩ := Option.isSome_iff_exists.1 h4
    exact ⟨b, hb, by simpa [hb] using h6⟩
  · rw [hr] at h4
    simpa using h4

/-- A destination that CHECK_REGS has let through is a register (R112). -/
theorem rdField_ok {i : Instr} {r : Int} (h : firstBadField i = none) (hr : rdField i = some r) :
    ∃ k, regIndex? r = some k := by
  cases hk : regIndex? r with
  | some k => exact ⟨k, rfl⟩
  | none => simp [firstBadField, usedFields, hr, hk] at h

/-- The own work at EX of a resolved instruction has a next state (R109). -/
theorem ownEx_total {W : Nat} {f : InFlight} (h : InFlight.resolved W f = true) (s : State) :
    ∃ t, (ownOf f.ins W).ex f s = .next t := by
  obtain ⟨-, hb, ⟨a, ha, -⟩, hrt, -⟩ := resolved_spec h
  have hk := fun r => rdField_ok (r := r) hb
  cases hi : f.ins <;> simp only [ownOf, noWork, bnezAtEx, aluAtEx, ha]
  any_goals exact ⟨_, rfl⟩
  all_goals
    rw [hi] at hk hrt
    obtain ⟨k, hk⟩ := hk _ rfl
    simp only [hk]
  · obtain ⟨b, hb, -⟩ := hrt _ rfl
    simp only [secondOperand, hi, rtField, hb]
    exact ⟨_, rfl⟩
  · simp only [secondOperand, hi, rtField]
    exact ⟨_, rfl⟩
  · obtain ⟨b, hb, -⟩ := hrt _ rfl
    simp only [secondOperand, hi, rtField, hb]
    exact ⟨_, rfl⟩
  · simp only [secondOperand, hi, rtField]
    exact ⟨_, rfl⟩

/-- The own work at MEM2 of a resolved instruction has a next state, be it that of a fatal error (R107). -/
theorem ownMem2_total {W : Nat} {f : InFlight} (h : InFlight.resolved W f = true) (s : State) :
    ∃ t, (ownOf f.ins W).mem2 f s = .next t := by
  obtain ⟨-, hb, ⟨a, ha, -⟩, hrt, -⟩ := resolved_spec h
  have hk := fun r => rdField_ok (r := r) hb
  cases hi : f.ins <;> simp only [ownOf, noWork, loadAtMem2, storeAtMem2, ha]
  any_goals exact ⟨_, rfl⟩
  · rw [hi] at hk
    obtain ⟨k, hk⟩ := hk _ rfl
    simp only [hk]
    split <;> exact ⟨_, rfl⟩
  · rw [hi] at hrt
    obtain ⟨b, hb, -⟩ := hrt _ rfl
    simp only [hb]
    split <;> exact ⟨_, rfl⟩

/-- What IF1 leaves as it is (R124 to R127). -/
theorem if1Work_frame (s : State) (c : Option Instr) :
    (s.if1Work c).regs = s.regs ∧ (s.if1Work c).mem = s.mem ∧ (s.if1Work c).reserved = s.reserved ∧
    (s.if1Work c).brTaken = s.brTaken ∧ (s.if1Work c).brTarget = s.brTarget ∧
    (s.if1Work c).width = s.width ∧ (s.if1Work c).store = s.store ∧ (s.if1Work c).currentStall = s.currentStall ∧
    (s.if1Work c).cycle = s.cycle ∧ (s.if1Work c).trace = s.trace ∧ (s.if1Work c).stage = s.stage := by
  unfold State.if1Work
  dsimp only
  split <;> split <;> simp

/-- What IF2 leaves as it is (R122). -/
theorem if2Work_frame (s : State) :
    s.if2Work.regs = s.regs ∧ s.if2Work.mem = s.mem ∧ s.if2Work.reserved = s.reserved ∧
    s.if2Work.brTaken = s.brTaken ∧ s.if2Work.brTarget = s.brTarget ∧
    s.if2Work.width = s.width ∧ s.if2Work.store = s.store ∧ s.if2Work.currentStall = s.currentStall ∧
    s.if2Work.cycle = s.cycle ∧ s.if2Work.trace = s.trace ∧ s.if2Work.stage = s.stage := by
  unfold State.if2Work
  dsimp only
  split <;> split <;> simp

/-- What an EMPTY slot leaves as it is at every stage (R105 to R111, R190). -/
theorem emptyWork_frame (s : State) :
    s.emptyWork.regs = s.regs ∧ s.emptyWork.mem = s.mem ∧ s.emptyWork.reserved = s.reserved ∧
    s.emptyWork.brTaken = s.brTaken ∧ s.emptyWork.brTarget = s.brTarget ∧
    s.emptyWork.width = s.width ∧ s.emptyWork.store = s.store ∧ s.emptyWork.currentStall = s.currentStall ∧
    s.emptyWork.cycle = s.cycle ∧ s.emptyWork.trace = s.trace ∧ s.emptyWork.stage = s.stage := by
  unfold State.emptyWork
  split
  · exact if1Work_frame _ _
  · exact if2Work_frame _
  all_goals simp [State.idEmpty]

end Sys2Proof.Machine
end

