-- ==== Sys2Proof/Tests/Slice0.lean ====
section
/-! SUPPORT. The model's own tests: an ill-formed term for each check of WellFormed, one decoded record per instruction, at
most two one-step tests per instruction with values from spec/, and a witness for the hypotheses of every statement that
has any. -/

namespace Sys2Proof.Tests

open Sys2Proof.Machine

/-! ### Helpers -/

/-- The outcome is a next state. -/
def isNext (o : Out) : Bool :=
  match o with
  | .next _ => true
  | .fault _ => false
  | .refused _ => false

/-- The next state of an outcome; the reset state where there is none. -/
def get (o : Out) : State :=
  match o with
  | .next t => t
  | .fault _ => State.reset
  | .refused _ => State.reset

/-- An outcome that is a next state is the next state it holds. -/
theorem eq_next {o : Out} (h : isNext o = true) : o = .next (get o) := by
  cases o with
  | next t => rfl
  | fault r => cases h
  | refused r => cases h

/-- An in-flight instruction with label 1. -/
def flight (i : Instr) (rsv rtv : Option Word) : InFlight := ⟨i, 1, rsv, rtv⟩

/-- The idle machine with R2 = 8 and 21 in the cell at byte address 8 (the start state of vector L1-3). -/
def start : State := { State.reset with regs := State.reset.regs.set 2 8, mem := [(8, 21)] }

/-- The machine with one instruction, at EX. -/
def atEx (f : InFlight) : State := { start with stage := .ex, slots := { Slots.empty with slot3 := some f } }

/-- The machine with one instruction, at MEM2. -/
def atMem2 (f : InFlight) : State := { start with stage := .mem2, slots := { Slots.empty with slot5 := some f } }

/-- The machine with one instruction, at ID. -/
def atId (f : InFlight) : State := { start with stage := .id, slots := { Slots.empty with slot2 := some f } }

/-! ### WellFormed refuses -/

/-- R78 point 2: an RR record without rt. -/
theorem test_wf_rt_missing : (Record.mk 3 1 2 none 0).wf 32 = false := by decide

/-- R78 point 2: an RI record with rt. -/
theorem test_wf_rt_present : (Record.mk 4 1 2 (some 3) 0).wf 32 = false := by decide

/-- R78 point 3: a displacement of 2^31 at W = 32, and the immediate below the range. -/
theorem test_wf_offset_range :
    (Record.mk 0 1 2 none 2147483648).wf 32 = false ∧ (Record.mk 6 1 2 none (-2147483649)).wf 32 = false ∧
    (Record.mk 1 0 2 (some 3) (-2147483648)).wf 32 = true := by decide

/-- R78 point 4: the targets 128 and -1. -/
theorem test_wf_target :
    (Record.mk 2 0 1 none 128).wf 32 = false ∧ (Record.mk 2 0 1 none (-1)).wf 32 = false ∧
    (Record.mk 2 0 1 none 127).wf 32 = true := by decide

/-- R78 points 3 and 4 on instructions. -/
theorem test_wf_instr :
    (Instr.addi 1 2 2147483648).wf 32 = false ∧ (Instr.bnez 1 128).wf 32 = false ∧
    (Instr.store 1 2 2147483647).wf 32 = true := by decide

/-- D1: a width of 0. -/
theorem test_wf_launch_width : (Launch.mk 0 [] [] []).wf = false := by decide

/-- R78 point 1: 129 instructions. -/
theorem test_wf_launch_length : (Launch.mk 32 (List.replicate 129 nopRecord) [] []).wf = false := by
  simp [Launch.wf]

/-- R78 points 2 to 4: an ill-formed record in the list. -/
theorem test_wf_launch_record : (Launch.mk 32 [⟨3, 1, 2, none, 0⟩] [] []).wf = false := by decide

/-- R78 point 5: the keys 32 and -1, and a value of 2^31. -/
theorem test_wf_launch_registers :
    (Launch.mk 32 [] [(32, 1)] []).wf = false ∧ (Launch.mk 32 [] [(-1, 1)] []).wf = false ∧
    (Launch.mk 32 [] [(1, 2147483648)] []).wf = false := by decide

/-- R78 point 6: the keys 4, 1024 and -8, and a value below the range. -/
theorem test_wf_launch_memory :
    (Launch.mk 32 [] [] [(4, 1)]).wf = false ∧ (Launch.mk 32 [] [] [(1024, 1)]).wf = false ∧
    (Launch.mk 32 [] [] [(-8, 1)]).wf = false ∧ (Launch.mk 32 [] [] [(8, -2147483649)]).wf = false := by decide

/-- R40: a mapping gives no key two values. -/
theorem test_wf_launch_twice :
    (Launch.mk 32 [] [(1, 5), (1, 6)] []).wf = false ∧ (Launch.mk 32 [] [] [(8, 5), (8, 6)]).wf = false := by decide

/-! ### Decoding: the code of R72 and the fields of R73, written out -/

theorem test_decode_load : decode ⟨0b000, 1, 2, none, -8⟩ = .ok (.load 1 2 (-8)) := by decide
theorem test_decode_store : decode ⟨0b001, 0, 2, some 3, 16⟩ = .ok (.store 3 2 16) := by decide
theorem test_decode_bnez : decode ⟨0b010, 0, 4, none, 7⟩ = .ok (.bnez 4 7) := by decide
theorem test_decode_add : decode ⟨0b011, 1, 2, some 3, 0⟩ = .ok (.add 1 2 3) := by decide
theorem test_decode_addi : decode ⟨0b100, 1, 2, none, 5⟩ = .ok (.addi 1 2 5) := by decide
theorem test_decode_sub : decode ⟨0b101, 1, 2, some 3, 0⟩ = .ok (.sub 1 2 3) := by decide
theorem test_decode_subi : decode ⟨0b110, 1, 2, none, -5⟩ = .ok (.subi 1 2 (-5)) := by decide
theorem test_decode_nop : decode ⟨0b111, 0, 0, none, 0⟩ = .ok .nop := by decide

/-- R78 point 2: a record with a field too few or too many is rejected by name. -/
theorem test_decode_rejects :
    decode ⟨0b011, 1, 2, none, 0⟩ = .error (.rtMissing 0b011) ∧
    decode ⟨0b000, 1, 2, some 3, 0⟩ = .error (.rtPresent 0b000) := by decide

/-- The eight words of spec/opcode_table.json; a word of no bits holds no code. -/
theorem test_decode_table :
    decodeTableWord 8 0 = some (.load 0 0 0) ∧ decodeTableWord 8 1 = some (.store 0 0 0) ∧
    decodeTableWord 8 2 = some (.bnez 0 0) ∧ decodeTableWord 8 3 = some (.add 0 0 0) ∧
    decodeTableWord 8 4 = some (.addi 0 0 0) ∧ decodeTableWord 8 5 = some (.sub 0 0 0) ∧
    decodeTableWord 8 6 = some (.subi 0 0 0) ∧ decodeTableWord 8 7 = some .nop ∧ decodeTableWord 0 7 = none := by decide

/-- A placed word is what the next step fetches: after one cycle ADD is in slots 0 and 1 with label 1 (R124). -/
theorem test_fetch_word :
    (get (step (State.reset.withFetchWord 8 3))).slots.slot1 = some ⟨.add 0 0 0, 1, none, none⟩ ∧
    (get (step (State.reset.withFetchWord 8 3))).slots.slot0 = some ⟨.add 0 0 0, 1, none, none⟩ := by decide

/-! ### One step of each instruction, values from spec/ -/

/-- The example of R151: x[2] = 8 and the cell at 8 holds 5 there, 21 here; R1 takes it and is released. -/
theorem test_load_example :
    (get (exec (.load 1 2 0) { atMem2 (flight (.load 1 2 0) (some 8) none) with
      reserved := State.reset.reserved.set 1 true })).regs[1] = 21 ∧
    (get (exec (.load 1 2 0) { atMem2 (flight (.load 1 2 0) (some 8) none) with
      reserved := State.reset.reserved.set 1 true })).reserved[1] = false := by decide

/-- Vector V-wrap: the base and displacement -2^31 wrap to address 0. -/
theorem test_load_wraps :
    (get (exec (.load 1 2 (-2147483648)) { atMem2 (flight (.load 1 2 (-2147483648)) (some (-2147483648)) none) with
      mem := [(0, 4)] })).regs[1] = 4 := by decide

/-- Vector L1-4: STORE R3,0(R2) with R3 = 7 and R2 = 0. -/
theorem test_store_example :
    (get (exec (.store 3 2 0) (atMem2 (flight (.store 3 2 0) (some 0) (some 7))))).mem = [(0, 7), (8, 21)] := by decide

/-- Vector V-st-wrap: 2147483647 + 4 wraps to -2147483645, a fatal error, and no cell changes. -/
theorem test_store_wraps :
    (get (exec (.store 1 2 4) (atMem2 (flight (.store 1 2 4) (some 2147483647) (some 1))))).status =
      .fatal ⟨.memIndex, 1, .address, -2147483645⟩ ∧
    (get (exec (.store 1 2 4) (atMem2 (flight (.store 1 2 4) (some 2147483647) (some 1))))).mem = [(8, 21)] := by decide

/-- The example of R170: a value that is not 0, a negative one too, takes the branch to 3. -/
theorem test_bnez_taken :
    (get (exec (.bnez 1 3) (atEx (flight (.bnez 1 3) (some (-1)) none)))).brTaken = true ∧
    (get (exec (.bnez 1 3) (atEx (flight (.bnez 1 3) (some (-1)) none)))).brTarget = 3 := by decide

/-- R172: the value 0 leaves the latch. -/
theorem test_bnez_not_taken :
    (get (exec (.bnez 1 3) (atEx (flight (.bnez 1 3) (some 0) none)))).brTaken = false := by decide

/-- The example of R184: 5 + 7. -/
theorem test_add_example :
    (get (exec (.add 3 1 2) (atEx (flight (.add 3 1 2) (some 5) (some 7))))).regs[3] = 12 := by decide

/-- Vector V-add-ovf: 2147483647 + 1 wraps. -/
theorem test_add_wraps :
    (get (exec (.add 3 1 2) (atEx (flight (.add 3 1 2) (some 2147483647) (some 1))))).regs[3] = -2147483648 := by decide

/-- The example of R185: 0 + 5. -/
theorem test_addi_example :
    (get (exec (.addi 1 0 5) (atEx (flight (.addi 1 0 5) (some 0) none)))).regs[1] = 5 := by decide

/-- Vector V-addi-neg: 4 + (-10). -/
theorem test_addi_negative :
    (get (exec (.addi 3 1 (-10)) (atEx (flight (.addi 3 1 (-10)) (some 4) none)))).regs[3] = -6 := by decide

/-- The example of R186: 12 - 5, rs minus rt. -/
theorem test_sub_example :
    (get (exec (.sub 4 3 1) (atEx (flight (.sub 4 3 1) (some 12) (some 5))))).regs[4] = 7 := by decide

/-- Vector V-sub-ovf: -2147483648 - 1 wraps. -/
theorem test_sub_wraps :
    (get (exec (.sub 3 1 2) (atEx (flight (.sub 3 1 2) (some (-2147483648)) (some 1))))).regs[3] = 2147483647 := by decide

/-- The example of R187: 7 - 10. -/
theorem test_subi_example :
    (get (exec (.subi 5 4 10) (atEx (flight (.subi 5 4 10) (some 7) none)))).regs[5] = -3 := by decide

/-- Vector V-subi-neg: 10 - (-5). -/
theorem test_subi_negative :
    (get (exec (.subi 3 1 (-5)) (atEx (flight (.subi 3 1 (-5)) (some 10) none)))).regs[3] = 15 := by decide

/-- The example of R190: a NOP fetch uses an issue number and appears in no event. -/
theorem test_nop_counts :
    (get (exec .nop start)).issue = 2 ∧ (get (exec .nop start)).cursor = 1 ∧ (get (exec .nop start)).events = [] := by
  decide

/-- R111: NOP at ID ends a stall. -/
theorem test_nop_at_id :
    (get (exec .nop { start with stage := .id, pendingStall := true })).pendingStall = false := by decide

/-! ### Witnesses for the hypotheses of the statements -/

theorem witness_UnusedFieldsAreNeverRead : decode ⟨0b011, 1, 2, some 3, 99⟩ = .ok (.add 1 2 3) := by decide

/-- A well-formed launch with keys, values and a target at the ends of their ranges. -/
def edgeLaunch : Launch :=
  ⟨32, [encode (.bnez 1 127), encode (.load 1 2 (-2147483648)), encode .nop],
    [(0, -2147483648), (31, 2147483647)], [(1016, -1), (0, 1)]⟩

theorem witness_LaunchLoadsRegistersAndMemory :
    edgeLaunch.wf = true ∧ (State.ofLaunch edgeLaunch).regs[31] = 2147483647 ∧
    (State.ofLaunch edgeLaunch).regs[0] = -2147483648 ∧ (State.ofLaunch edgeLaunch).regs[30] = 0 ∧
    (State.ofLaunch edgeLaunch).memRead (8 * 127) = -1 ∧ (State.ofLaunch edgeLaunch).memRead 8 = 0 := by decide

theorem witness_LaunchLoadsTheProgram :
    edgeLaunch.wf = true ∧ 2 < edgeLaunch.program.length ∧ edgeLaunch.program.length ≤ 3 := by decide

/-- Each point at the end of its range: one instruction too many, the target 128, the keys 32 and 1024, the value 2^31, a key
given twice, the width 0. -/
theorem witness_IllFormedLaunchIsRefused :
    128 < (List.replicate 129 nopRecord).length ∧ breaksR78 32 ⟨2, 0, 1, none, 128⟩ ∧ ¬ breaksR78 32 ⟨2, 0, 1, none, 127⟩ ∧
    ¬ ((0 : Int) ≤ 32 ∧ (32 : Int) ≤ 31) ∧ ¬ ((0 : Int) ≤ 1024 ∧ (1024 : Int) ≤ 1016 ∧ (1024 : Int) % 8 = 0) ∧
    outsideSigned 32 2147483648 ∧ ¬ outsideSigned 32 2147483647 ∧ ¬ ([1, 1] : List Int).Nodup := by
  simp [breaksR78, outsideSigned]

theorem witness_LaunchEstablishesTheInvariant :
    launch edgeLaunch = .next (get (launch edgeLaunch)) ∧ (get (launch edgeLaunch)).inv = true :=
  ⟨eq_next (by decide), by decide⟩

theorem witness_WordsAreTheSignedRange :
    0 < 1 ∧ Word.ofInt 1 1 = -1 ∧ inSignedRange 1 (-1) = true ∧ inSignedRange 1 1 = false := by decide

/-- The ends of the address range: 0 and 1016 are cells, -8, 1017 and 1024 are not (R51). -/
theorem witness_ValidAddressesAreTheCells :
    cellAddress? 0 = some 0 ∧ cellAddress? 1016 = some 1016 ∧ cellAddress? (-8) = none ∧ cellAddress? 1017 = none ∧
    cellAddress? 1024 = none := by decide

/-- ADD to R31 at EX. -/
def addAtEx : State := atEx (flight (.add 31 1 2) (some 5) (some 7))

theorem witness_AddWritesTheSumAtEx :
    addAtEx.stage = .ex ∧ addAtEx.status = .running ∧ addAtEx.slots.slot3 = some (flight (.add 31 1 2) (some 5) (some 7)) ∧
    regIndex? 31 = some 31 := by decide

/-- ADD_IMMEDIATE to R0 at EX. -/
def addiAtEx : State := atEx (flight (.addi 0 1 (-2147483648)) (some (-1)) none)

theorem witness_AddiWritesTheSumAtEx :
    addiAtEx.stage = .ex ∧ addiAtEx.status = .running ∧
    addiAtEx.slots.slot3 = some (flight (.addi 0 1 (-2147483648)) (some (-1)) none) ∧ regIndex? 0 = some 0 := by decide

/-- SUB to R31 at EX. -/
def subAtEx : State := atEx (flight (.sub 31 31 31) (some 5) (some 5))

theorem witness_SubWritesTheDifferenceAtEx :
    subAtEx.stage = .ex ∧ subAtEx.status = .running ∧
    subAtEx.slots.slot3 = some (flight (.sub 31 31 31) (some 5) (some 5)) ∧ regIndex? 31 = some 31 := by decide

/-- SUB_IMMEDIATE to R0 at EX. -/
def subiAtEx : State := atEx (flight (.subi 0 0 2147483647) (some (-2)) none)

theorem witness_SubiWritesTheDifferenceAtEx :
    subiAtEx.stage = .ex ∧ subiAtEx.status = .running ∧
    subiAtEx.slots.slot3 = some (flight (.subi 0 0 2147483647) (some (-2)) none) ∧ regIndex? 0 = some 0 := by decide

/-- LOAD to R31 from the last cell, at MEM2. -/
def loadAtLast : State := atMem2 (flight (.load 31 2 1008) (some 8) none)

theorem witness_LoadReadsTheCellAtMem2 :
    loadAtLast.stage = .mem2 ∧ loadAtLast.status = .running ∧
    loadAtLast.slots.slot5 = some (flight (.load 31 2 1008) (some 8) none) ∧ regIndex? 31 = some 31 ∧
    cellAddress? (effectiveAddress loadAtLast.width 8 1008) = some 1016 := by decide

/-- STORE to the first cell, at MEM2. -/
def storeAtFirst : State := atMem2 (flight (.store 3 2 (-8)) (some 8) (some 7))

theorem witness_StoreWritesTheCellAtMem2 :
    storeAtFirst.stage = .mem2 ∧ storeAtFirst.status = .running ∧
    storeAtFirst.slots.slot5 = some (flight (.store 3 2 (-8)) (some 8) (some 7)) ∧
    cellAddress? (effectiveAddress storeAtFirst.width 8 (-8)) = some 0 ∧ Memory.wf storeAtFirst.mem = true := by decide

/-- BRANCH_NE_ZERO at EX, once with 0 and once with the least value that is not. -/
def bnezWith (v : Word) : State := atEx (flight (.bnez 1 127) (some v) none)

theorem witness_BnezSetsTheBranchLatchAtEx :
    (bnezWith 0).stage = .ex ∧ (bnezWith 0).status = .running ∧
    (bnezWith 0).slots.slot3 = some (flight (.bnez 1 127) (some 0) none) ∧
    (bnezWith (-2147483648)).slots.slot3 = some (flight (.bnez 1 127) (some (-2147483648)) none) := by decide

theorem witness_NopIsFetchedAsEmpty :
    State.reset.stage = .if1 ∧ State.reset.pendingStall = false ∧
    ({ State.reset with pendingStall := true } : State).stage = .if1 := by decide

theorem witness_FetchLabelsAndAdvances :
    start.stage = .if1 ∧ Instr.load 1 2 0 ≠ .nop ∧ ({ start with pendingStall := true } : State).stage = .if1 := by decide

/-- The machine with one instruction in every back slot that only passes it on. -/
def passing (st : Stage) (f : Option InFlight) : State :=
  { start with stage := st, slots := { Slots.empty with slot4 := f, slot6 := f, slot7 := f } }

theorem witness_PassThroughStages :
    (passing .wb (some (flight (.bnez 1 3) (some 0) none))).slots.slot7 = some (flight (.bnez 1 3) (some 0) none) ∧
    (passing .mem3 (some (flight (.bnez 1 3) (some 0) none))).slots.slot6 = some (flight (.bnez 1 3) (some 0) none) ∧
    (passing .mem1 (some (flight (.bnez 1 3) (some 0) none))).slots.slot4 = some (flight (.bnez 1 3) (some 0) none) ∧
    (passing .wb none).slots.slot7 = none ∧ (passing .mem3 none).slots.slot6 = none ∧
    (passing .mem1 none).slots.slot4 = none := by decide

/-- The machine with one instruction, at IF2. -/
def atIf2 (v : Option InFlight) : State := { start with stage := .if2, slots := { Slots.empty with slot1 := v } }

theorem witness_If2MovesUnlessStalled :
    (atIf2 (some (flight (.add 1 2 3) none none))).stage = .if2 ∧
    occupant (atIf2 (some (flight (.add 1 2 3) none none))).slots.slot1 = .add 1 2 3 ∧
    occupant (atIf2 none).slots.slot1 = .nop := by decide

theorem witness_BadRegisterIsFatalAtId :
    (atId (flight (.load 32 0 0) none none)).stage = .id ∧
    firstBadField (.load 32 0 0) = some (.rd, 32) ∧ firstBadField (.store 31 (-1) 0) = some (.rs, -1) := by decide

/-- R154: a LOAD of its own base has a hazard; without that, it has none. A STORE waits for its data register. -/
theorem witness_IdStallsOrResolves :
    (atId (flight (.load 1 1 0) none none)).slots.slot2 = some (flight (.load 1 1 0) none none) ∧
    firstBadField (.load 1 1 0) = none ∧
    hazard (.load 1 1 0) ((atId (flight (.load 1 1 0) none none)).reserve 1) = true ∧
    hazard (.load 1 2 0) ((atId (flight (.load 1 2 0) none none)).reserve 1) = false ∧
    hazard (.store 31 2 0) (start.reserve 31) = true ∧ hazard (.add 31 1 2) (start.reserve 31) = false := by decide

theorem witness_EmptyIdClearsTheStall :
    ({ start with stage := .id } : State).stage = .id ∧ start.slots.slot2 = none := by decide

/-- A LOAD of the byte address 1017, and one of 1024: the ends of the range. -/
theorem witness_BadAddressIsFatalAtMem2 :
    (atMem2 (flight (.load 1 2 1009) (some 8) none)).slots.slot5 = some (flight (.load 1 2 1009) (some 8) none) ∧
    InFlight.resolved 32 (flight (.load 1 2 1009) (some 8) none) = true ∧ isAccess (.load 1 2 1009) = true ∧
    cellAddress? (effectiveAddress 32 8 1009) = none ∧ cellAddress? (effectiveAddress 32 8 1016) = none := by decide

theorem witness_AluFrame : exec (.add 31 1 2) addAtEx = .next (get (exec (.add 31 1 2) addAtEx)) := eq_next (by decide)

theorem witness_LoadFrame : exec (.load 31 2 1008) loadAtLast = .next (get (exec (.load 31 2 1008) loadAtLast)) :=
  eq_next (by decide)

theorem witness_StoreFrame :
    exec (.store 3 2 (-8)) storeAtFirst = .next (get (exec (.store 3 2 (-8)) storeAtFirst)) ∧
    cellAddress? (effectiveAddress storeAtFirst.width 8 (-8)) ≠ some 8 := ⟨eq_next (by decide), by decide⟩

theorem witness_BnezFrame : exec (.bnez 1 127) (bnezWith 1) = .next (get (exec (.bnez 1 127) (bnezWith 1))) :=
  eq_next (by decide)

theorem witness_NopFrame : exec .nop start = .next (get (exec .nop start)) := eq_next (by decide)

theorem witness_EveryOccupantHasANextState :
    addAtEx.slots.get addAtEx.stage = some (flight (.add 31 1 2) (some 5) (some 7)) ∧
    InFlight.resolved addAtEx.width (flight (.add 31 1 2) (some 5) (some 7)) = true ∧
    (atId (flight (.add 1 2 3) none none)).slots.get .id = some (flight (.add 1 2 3) none none) ∧
    (passing .wb none).slots.get .wb = none := by decide

/-! A machine in the middle of a program: every family in flight. -/

/-- LOAD at MEM2, STORE at MEM3, ADD_IMMEDIATE at EX, a reader of its result at ID, a branch at IF2. -/
def busy : State :=
  { start with
    store := [encode (.addi 1 0 5), encode (.load 4 2 0), encode (.bnez 1 0), encode .nop]
    reserved := State.reset.reserved.set 4 true
    slots := {
      slot0 := none
      slot1 := some ⟨.bnez 4 0, 8, none, none⟩
      slot2 := some ⟨.sub 3 1 2, 7, none, none⟩
      slot3 := some ⟨.addi 1 2 5, 6, some 8, none⟩
      slot4 := none
      slot5 := some ⟨.load 4 2 0, 4, some 8, none⟩
      slot6 := some ⟨.store 2 2 0, 3, some 8, some 21⟩
      slot7 := none }
    cursor := 1
    issue := 9
    cycle := 9 }

theorem witness_StepRunsTheDecodedInstruction :
    busy.status = .running ∧ busy.cursorInStore ∧
    decode (storeEntry busy.store busy.cursor.toNat) = .ok (.load 4 2 0) := by decide

theorem witness_EndedRunsStayEnded :
    ({ start with status := .done .drained } : State).status = .done .drained ∧
    ({ start with status := .fatal ⟨.regIndex, 1, .rd, 32⟩ } : State).status = .fatal ⟨.regIndex, 1, .rd, 32⟩ := by decide

theorem witness_CursorOutEndsTheRun :
    ({ start with cursor := 128 } : State).status = .running ∧ ¬ ((0 : Int) ≤ 128 ∧ (128 : Int) < 128) ∧
    ¬ ((0 : Int) ≤ -1 ∧ (-1 : Int) < 128) := by decide

theorem witness_CycleIsSynchronous :
    busy.inv = true ∧ busy.status = .running ∧ busy.cursorInStore ∧ cycleFatal? busy = none := by decide

/-- busy with a bad address at MEM2 and a bad register field at ID: MEM2's is the one. -/
def bothBad : State :=
  { busy with slots := { busy.slots with
      slot2 := some ⟨.sub 32 1 2, 7, none, none⟩, slot5 := some ⟨.load 4 2 4, 4, some 8, none⟩ } }

/-- busy with a bad register field at ID. -/
def idBad : State := { busy with slots := { busy.slots with slot2 := some ⟨.sub 3 1 (-1), 7, none, none⟩ } }

/-- LOAD R1,0(R0) at EX and ADDI R2,R40,1 at ID: the older LOAD has not been at MEM2 (notes/assumptions/19.md). -/
def loadBehind : State :=
  { start with
    slots := { Slots.empty with
      slot2 := some ⟨.addi 2 40 1, 2, none, none⟩, slot3 := some ⟨.load 1 0 0, 1, some 0, none⟩ }
    reserved := State.reset.reserved.set 1 true
    issue := 3 }

theorem witness_FatalErrorStopsTheCycle :
    bothBad.inv = true ∧ bothBad.status = .running ∧ bothBad.cursorInStore ∧
    mem2Fatal? bothBad = some ⟨.memIndex, 4, .address, 12⟩ ∧ cycleFatal? bothBad = mem2Fatal? bothBad ∧
    idBad.inv = true ∧ idBad.status = .running ∧ idBad.cursorInStore ∧ mem2Fatal? idBad = none ∧
    cycleFatal? idBad = some ⟨.regIndex, 7, .rt, -1⟩ ∧
    loadBehind.inv = true ∧ loadBehind.status = .running ∧ loadBehind.cursorInStore ∧ mem2Fatal? loadBehind = none ∧
    cycleFatal? loadBehind = some ⟨.regIndex, 2, .rs, 40⟩ := by decide

theorem witness_StepAlwaysHasANextState :
    busy.inv = true ∧ busy.isFatal = false ∧ ({ busy with cursor := 128 } : State).inv = true := by decide

theorem witness_StepKeepsTheInvariant : busy.inv = true ∧ step busy = .next (get (step busy)) :=
  ⟨by decide, eq_next (by decide)⟩

/-- busy with the STORE at MEM2, of 0 over the listed cell. -/
def storing : State :=
  { busy with slots := { busy.slots with slot5 := some ⟨.store 0 2 0, 4, some 8, some 0⟩, slot6 := none } }

theorem witness_StepKeepsMemoryCanonical :
    Memory.wf storing.mem = true ∧ step storing = .next (get (step storing)) := ⟨by decide, eq_next (by decide)⟩

theorem witness_StepKeepsTheProgram : step busy = .next (get (step busy)) := eq_next (by decide)

theorem witness_OnlyStoresChangeMemory :
    step storing = .next (get (step storing)) ∧ (get (step storing)).memRead 8 ≠ storing.memRead 8 :=
  ⟨eq_next (by decide), by decide⟩

theorem witness_OnlyAluAndLoadChangeRegisters :
    step busy = .next (get (step busy)) ∧ (get (step busy)).regs[1] ≠ busy.regs[1] ∧
    (get (step busy)).regs[4] ≠ busy.regs[4] := ⟨eq_next (by decide), by decide⟩

/-- busy with a LOAD to R31 at ID. -/
def loading : State := { busy with slots := { busy.slots with slot2 := some ⟨.load 31 2 0, 7, none, none⟩ } }

theorem witness_OnlyLoadsChangeReservations :
    step loading = .next (get (step loading)) ∧ loading.reserved[31] = false ∧
    (get (step loading)).reserved[31] = true ∧ loading.reserved[4] = true ∧ (get (step loading)).reserved[4] = false :=
  ⟨eq_next (by decide), by decide⟩

theorem witness_CycleCounterCountsRecords :
    step busy = .next (get (step busy)) ∧ step idBad = .next (get (step idBad)) :=
  ⟨eq_next (by decide), eq_next (by decide)⟩

theorem witness_DrainedExactlyWhenEmpty :
    start.status = .running ∧ step start = .next (get (step start)) ∧ (get (step start)).cycle = start.cycle + 1 ∧
    busy.status = .running ∧ step busy = .next (get (step busy)) ∧ (get (step busy)).cycle = busy.cycle + 1 :=
  ⟨by decide, eq_next (by decide), by decide, by decide, eq_next (by decide), by decide⟩

theorem witness_SlotsMoveInOrder :
    busy.status = .running ∧ step busy = .next (get (step busy)) ∧ (get (step busy)).cycle = busy.cycle + 1 :=
  ⟨by decide, eq_next (by decide), by decide⟩

/-- busy with a branch to 127 at EX and a LOAD at ID. -/
def branching (v : Word) : State :=
  { busy with slots := { busy.slots with
      slot2 := some ⟨.load 31 2 0, 7, none, none⟩, slot3 := some ⟨.bnez 2 127, 6, some v, none⟩ } }

theorem witness_TakenBranchSquashes :
    (branching 8).status = .running ∧ step (branching 8) = .next (get (step (branching 8))) ∧
    (get (step (branching 8))).cycle = (branching 8).cycle + 1 ∧ loadsTo (.load 31 2 0) 31 = true ∧ (8 : Word) ≠ 0 :=
  ⟨by decide, eq_next (by decide), by decide, by decide, by decide⟩

theorem witness_UntakenBranchFallsThrough :
    (branching 0).inv = true ∧ (branching 0).status = .running ∧
    step (branching 0) = .next (get (step (branching 0))) ∧ (get (step (branching 0))).cycle = (branching 0).cycle + 1 :=
  ⟨by decide, by decide, eq_next (by decide), by decide⟩

/-- In busy the reader names the result's register as rs; here as rt. -/
def readsRt : State := { busy with slots := { busy.slots with slot2 := some ⟨.store 1 2 0, 7, none, none⟩ } }

theorem witness_ResultsReachTheNextInstruction :
    busy.inv = true ∧ busy.status = .running ∧ step busy = .next (get (step busy)) ∧
    (get (step busy)).cycle = busy.cycle + 1 ∧ computesTo (.addi 1 2 5) 1 = true ∧
    (∀ r ∈ sources (.sub 3 1 2), ∀ j, regIndex? r = some j → busy.reserved[j] = false) ∧
    (get (step busy)).slots.slot3 = some ⟨.sub 3 1 2, 7, some 13, some 8⟩ ∧ rsField (.sub 3 1 2) = some 1 ∧
    readsRt.inv = true ∧ step readsRt = .next (get (step readsRt)) ∧ (get (step readsRt)).cycle = readsRt.cycle + 1 ∧
    rtField (.store 1 2 0) = some 1 ∧ regIndex? 1 = some 1 :=
  ⟨by decide, by decide, eq_next (by decide), by decide, by decide, by decide, by decide, by decide, by decide,
    eq_next (by decide), by decide⟩

/-- A drained run with R31 = -1 and the last cell listed. -/
def ended : State :=
  { start with regs := start.regs.set 31 (-1), mem := [(0, 3), (1016, -7)], status := .done .drained }

theorem witness_ReportListsTheNonZero : ended.report? = some ⟨[(2, 8), (31, -1)], [(0, 3), (1016, -7)]⟩ := by decide

theorem witness_EveryRegisterIsOrdinary : (0 : Int) = ((0 : Fin 32).val : Int) ∧ (31 : Int) = ((31 : Fin 32).val : Int) ∧
    start.readReg? 2 = some 8 ∧ start.readReg? 32 = none ∧ start.readReg? (-1) = none := by decide

/-- The LOAD of its own base (vector V-selfload) at ID. -/
def selfLoad : State :=
  { start with slots := { Slots.empty with slot2 := some ⟨.load 2 2 0, 1, none, none⟩ }, cursor := 2, issue := 3 }

/-- A reader of a stale reservation (R247) at ID. -/
def staleReader : State :=
  { start with
    slots := { Slots.empty with slot2 := some ⟨.add 3 1 1, 1, none, none⟩ }
    reserved := State.reset.reserved.set 1 true
    cursor := 2
    issue := 3 }

theorem witness_UnreleasedReaderHangsForEver :
    selfLoad.inv = true ∧ selfLoad.status = .running ∧ selfLoad.cursorInStore ∧ firstBadField (.load 2 2 0) = none ∧
    2 ∈ sources (.load 2 2 0) ∧ loadsTo (.load 2 2 0) 2 = true ∧ selfLoad.slots.slot3 = none ∧
    selfLoad.slots.slot4 = none ∧ selfLoad.slots.slot5 = none ∧ takenTarget? selfLoad = none ∧
    steps 1 selfLoad = .next (get (steps 1 selfLoad)) ∧
    staleReader.inv = true ∧ 1 ∈ sources (.add 3 1 1) ∧ staleReader.reserved[1] = true ∧ takenTarget? staleReader = none :=
  ⟨by decide, by decide, by decide, by decide, by decide, by decide, by decide, by decide, by decide, by decide,
    eq_next (by decide), by decide⟩

/-- The load-use pair of vector L1-3: the LOAD at ID, the ADD behind it. -/
def loadUse : State :=
  { start with
    slots := { Slots.empty with
      slot1 := some ⟨.add 3 1 1, 2, none, none⟩, slot2 := some ⟨.load 1 2 0, 1, none, none⟩ }
    cursor := 2
    issue := 3 }

theorem witness_LoadUseTakesTwoBubbles :
    loadUse.inv = true ∧ loadUse.status = .running ∧ 1 ∈ sources (.add 3 1 1) ∧ regIndex? 1 = some 1 ∧
    loadsTo (.add 3 1 1) 1 = false ∧ (∀ r ∈ sources (.add 3 1 1), r ≠ 1 → False) ∧ stallsAtId loadUse = false ∧
    takenTarget? loadUse = none ∧ loadUse.slots.slot3 = none ∧ loadUse.slots.slot4 = none ∧
    step loadUse = .next (get (step loadUse)) ∧
    step (get (step loadUse)) = .next (get (step (get (step loadUse)))) ∧
    step (get (step (get (step loadUse)))) = .next (get (step (get (step (get (step loadUse)))))) ∧
    step (get (step (get (step (get (step loadUse)))))) =
      .next (get (step (get (step (get (step (get (step loadUse)))))))) ∧
    (get (step (get (step (get (step (get (step loadUse)))))))).cycle = loadUse.cycle + 4 :=
  ⟨by decide, by decide, by decide, by decide, by decide, by decide, by decide, by decide, by decide, by decide, eq_next (by decide), eq_next (by decide),
    eq_next (by decide), eq_next (by decide), by decide⟩

/-- A branch to 1 at EX, taken. -/
def jumping : State := { busy with slots := { Slots.empty with slot3 := some ⟨.bnez 2 1, 6, some 8, none⟩ } }

theorem witness_TargetIsFetchedNext :
    jumping.inv = true ∧ jumping.status = .running ∧ takenTarget? jumping = some 1 ∧
    step jumping = .next (get (step jumping)) ∧
    step (get (step jumping)) = .next (get (step (get (step jumping)))) ∧
    (get (step (get (step jumping)))).cycle = jumping.cycle + 2 ∧
    decode (storeEntry jumping.store 1) = .ok (.load 4 2 0) :=
  ⟨by decide, by decide, by decide, eq_next (by decide), eq_next (by decide), by decide, by decide⟩

/-- The state after storeAtFirst's STORE with the LOAD of the same cell at MEM2. -/
def reloading : State :=
  { atMem2 (flight (.load 1 2 (-8)) (some 8) none) with mem := (get (exec (.store 3 2 (-8)) storeAtFirst)).mem }

theorem witness_StoreThenLoadReadsTheStoredValue :
    Memory.wf storeAtFirst.mem = true ∧
    exec (.store 3 2 (-8)) storeAtFirst = .next (get (exec (.store 3 2 (-8)) storeAtFirst)) ∧
    reloading.mem = (get (exec (.store 3 2 (-8)) storeAtFirst)).mem ∧ reloading.stage = .mem2 ∧
    reloading.slots.slot5 = some (flight (.load 1 2 (-8)) (some 8) none) ∧
    cellAddress? (effectiveAddress reloading.width 8 (-8)) = some 0 ∧
    exec (.load 1 2 (-8)) reloading = .next (get (exec (.load 1 2 (-8)) reloading)) :=
  ⟨by decide, eq_next (by decide), by decide, by decide, by decide, by decide, eq_next (by decide)⟩

/-- busy under other numbers. -/
def renumbered : State :=
  { busy with
    issue := 40
    cycle := 3
    slots := { busy.slots with slot3 := some ⟨.addi 1 2 5, 16, some 8, none⟩ } }

theorem witness_LabelsInfluenceNothing : busy.unlabelled = renumbered.unlabelled ∧ busy ≠ renumbered := by decide

end Sys2Proof.Tests
end

/-! ### Words (R9) -/

namespace Sys2Proof

/-- The signed W-bit range, as two inequalities. -/
theorem inSignedRange_iff {W : Nat} {n : Int} :
    inSignedRange W n = true ↔ -(2 : Int) ^ (W - 1) ≤ n ∧ n < (2 : Int) ^ (W - 1) := by
  simp [inSignedRange]

/-- `2^W` is twice the bound of the signed range. -/
theorem two_pow_eq_two_mul_bound {W : Nat} (hW : 0 < W) : ((2 ^ W : Nat) : Int) = 2 * (2 : Int) ^ (W - 1) := by
  obtain ⟨w, rfl⟩ : ∃ w, W = w + 1 := ⟨W - 1, by omega⟩
  push_cast
  simp [pow_succ, mul_comm]

/-- `word(n)` is in the signed range (R9). -/
theorem ofInt_inSignedRange {W : Nat} (hW : 0 < W) (n : Int) : inSignedRange W (Word.ofInt W n) = true := by
  have hpos : 0 < 2 ^ W := Nat.two_pow_pos W
  have hlow := Int.le_bmod (x := n) hpos
  have hhigh := Int.bmod_lt (x := n) hpos
  rw [two_pow_eq_two_mul_bound hW] at hlow hhigh
  unfold Word.ofInt
  exact inSignedRange_iff.2 ⟨by omega, by omega⟩

/-- An integer in the signed range is its own word (R9). -/
theorem ofInt_of_inSignedRange {W : Nat} (hW : 0 < W) {n : Int} (h : inSignedRange W n = true) :
    Word.ofInt W n = n := by
  obtain ⟨hlow, hhigh⟩ := inSignedRange_iff.1 h
  have hpow := two_pow_eq_two_mul_bound hW
  exact Int.bmod_eq_of_le_mul_two (by omega) (by omega)

/-- The canonical Words are the integers in the signed range (R9). -/
theorem canonical_iff_inSignedRange {W : Nat} (hW : 0 < W) (v : Int) :
    Word.Canonical W v ↔ inSignedRange W v = true :=
  ⟨fun h => h ▸ ofInt_inSignedRange hW v, ofInt_of_inSignedRange hW⟩

/-- `word(n)` is congruent to n modulo 2^W (R9). -/
theorem ofInt_sub_emod (W : Nat) (n : Int) : (Word.ofInt W n - n) % (2 : Int) ^ W = 0 := by
  have hdvd : ((2 ^ W : Nat) : Int) ∣ Word.ofInt W n - n := Int.dvd_bmod_sub_self
  exact Int.emod_eq_zero_of_dvd (by exact_mod_cast hdvd)

/-- Settles O10: wrapping is Lean's balanced remainder, whose range is the signed one because 2^W is even. -/
theorem wordsAreTheSignedRange : Obligations.WordsAreTheSignedRange := fun W hW =>
  ⟨canonical_iff_inSignedRange hW, fun n => ⟨ofInt_inSignedRange hW n, ofInt_sub_emod W n⟩⟩

/-! ### Every record of a well-formed store decodes (R78 point 2) -/

/-- The formats without an rt field are those of the other five codes (R73). -/
theorem codeHasRt_eq_false {code : BitVec 3} (h : codeHasRt code = false) :
    code = 0 ∨ code = 2 ∨ code = 4 ∨ code = 6 ∨ code = 7 := by
  revert code; decide

/-- The formats with an rt field are those of STORE, ADD and SUB (R73). -/
theorem codeHasRt_eq_true {code : BitVec 3} (h : codeHasRt code = true) : code = 1 ∨ code = 3 ∨ code = 5 := by
  revert code; decide

/-- A record with exactly the fields of its format is an instruction (R78 point 2). -/
theorem decode_total {r : Record} (h : r.shapeOk = true) : ∃ i, decode r = .ok i := by
  obtain ⟨code, rd, rs, rt, offset⟩ := r
  cases rt with
  | none =>
    have hc : codeHasRt code = false := by simpa [Record.shapeOk] using h
    rcases codeHasRt_eq_false hc with rfl | rfl | rfl | rfl | rfl <;> exact ⟨_, rfl⟩
  | some rt =>
    have hc : codeHasRt code = true := by simpa [Record.shapeOk] using h
    rcases codeHasRt_eq_true hc with rfl | rfl | rfl <;> exact ⟨_, rfl⟩

end Sys2Proof

namespace Sys2Proof.Machine

/-- Every entry of a well-formed store is a well-formed record, the sentinel behind its end too (R41). -/
theorem storeEntry_wf {W : Nat} {store : List Record} (h : store.all (Record.wf W) = true) (k : Nat) :
    (storeEntry store k).wf W = true := by
  induction store generalizing k with
  | nil => rfl
  | cons r rest ih =>
    obtain ⟨hr, hrest⟩ : r.wf W = true ∧ rest.all (Record.wf W) = true := by simpa using h
    cases k with
    | zero => exact hr
    | succ k => exact ih hrest k

/-- The record at the cursor of a well-formed store decodes. -/
theorem decode_fetched_total {s : State} (h : s.store.all (Record.wf s.width) = true) :
    ∃ i, decode s.fetched = .ok i := by
  have hwf : s.fetched.wf s.width = true := storeEntry_wf h _
  obtain ⟨hshape, -⟩ : s.fetched.shapeOk = true ∧ s.fetched.offsetOk s.width = true := by
    simpa [Record.wf] using hwf
  exact decode_total hshape

/-! ### What the work of one stage leaves unchanged -/

/-- Loading a slot that the stage writes leaves the slots that it does not write (R105 to R126). -/
theorem get_put_of_not_written {work st st' : Stage} (hst : writesSlot work st = true)
    (hst' : writesSlot work st' = false) (sl : Slots) (v : Option InFlight) : (sl.put st v).get st' = sl.get st' :=
  slots_get_put_other sl v fun e => by simp [e, hst] at hst'

/-- The own work at EX writes the registers and the branch latch only (R109). -/
theorem ownEx_shape {f : InFlight} {W : Nat} {s t : State} (h : (ownOf f.ins W).ex f s = .next t) :
    ∃ regs taken target, t = { s with regs := regs, brTaken := taken, brTarget := target } := by
  rcases ownEx_cases h with ⟨-, -, rfl⟩ | ⟨-, tg, v, -, -, rfl⟩ | ⟨op, k, a, b, -, -, -, rfl⟩
  · exact ⟨_, _, _, rfl⟩
  · split <;> exact ⟨_, _, _, rfl⟩
  · exact ⟨_, _, _, rfl⟩

/-- The own work at MEM2 writes the registers, the memory, the reservations and the status only (R107). -/
theorem ownMem2_shape {f : InFlight} {W : Nat} {s t : State} (h : (ownOf f.ins W).mem2 f s = .next t) :
    ∃ regs mem reserved status,
      t = { s with regs := regs, mem := mem, reserved := reserved, status := status } := by
  rcases ownMem2_cases h with ⟨-, -, rfl⟩ | ⟨_, _, _, _, _, _, -, -, -, -, rfl⟩ |
    ⟨_, _, _, _, _, _, -, -, -, -, rfl⟩ | ⟨_, _, -, -, -, rfl⟩ <;> exact ⟨_, _, _, _, rfl⟩

/-- Entering ID writes the reservations only (R113). -/
theorem ownEnter_shape (i : Instr) (W : Nat) (s : State) :
    ∃ reserved, (ownOf i W).enter s = { s with reserved := reserved } := by
  rcases ownEnter_cases i W s with ⟨rd, -, -, -, h⟩ | ⟨-, h⟩ <;> rw [h]
  · unfold State.reserve
    split <;> exact ⟨_, rfl⟩
  · exact ⟨_, rfl⟩

/-- ID writes slot 3, the reservations, the stall decision, the events and the status only (R110, R112, R113). -/
theorem idWork_shape (i : Instr) (W : Nat) (s : State) (f : InFlight) :
    ∃ reserved pending events status v, s.idWork (ownOf i W).enter f =
      { s with
        reserved := reserved, pendingStall := pending, events := events, status := status
        slots := s.slots.put .ex v } := by
  obtain ⟨reserved, he⟩ := ownEnter_shape i W s
  rcases idWork_cases s (ownOf i W).enter f with ⟨_, _, -, h⟩ | ⟨-, -, h⟩ | ⟨-, -, h⟩ <;> rw [h]
  · exact ⟨_, _, _, _, s.slots.slot3, rfl⟩
  · rw [he]; exact ⟨_, _, _, _, none, rfl⟩
  · rw [he]; exact ⟨_, _, _, _, some _, rfl⟩

/-- IF2 writes slot 2 and the events only (R122). -/
theorem if2Work_shape (s : State) :
    ∃ events v, s.if2Work = { s with events := events, slots := s.slots.put .id v } := by
  unfold State.if2Work
  by_cases hp : s.pendingStall = true
  · simp only [if_pos hp]
    split <;> exact ⟨_, s.slots.slot2, rfl⟩
  · simp only [if_neg hp]
    split <;> exact ⟨_, s.slots.slot1, rfl⟩

/-- IF1 writes slots 0 and 1, the cursor, the issue counter and the events only (R124 to R127). -/
theorem if1Work_shape (s : State) (c : Option Instr) :
    ∃ events cursor issue v w, s.if1Work c =
      { s with
        events := events, cursor := cursor, issue := issue, slots := (s.slots.put .if1 v).put .if2 w } := by
  unfold State.if1Work
  cases c <;> split
  case none.isTrue | some.isTrue => exact ⟨_, _, _, _, s.slots.slot1, rfl⟩
  all_goals exact ⟨_, _, _, _, _, rfl⟩

/-- A sequence cut by a fatal error stops there, and else goes on (R201). -/
theorem ifRunning_next_cases {s t : State} {k : State → Out} (h : s.ifRunning k = .next t) :
    (s.status ≠ .running ∧ t = s) ∨ (s.status = .running ∧ k s = .next t) := by
  by_cases hr : s.status = .running
  · exact .inr ⟨hr, by simpa [hr] using h⟩
  · exact .inl ⟨hr, by simpa [hr] using h.symm⟩

/-- A part of the cycle has a next state when it has one from a Running engine: after a fatal error it does not run
(R201). -/
theorem ifRunning_total (s : State) {k : State → Out} (hk : s.status = .running → ∃ t, k s = .next t) :
    ∃ t, s.ifRunning k = .next t := by
  by_cases hr : s.status = .running
  · rw [ifRunning_running hr]
    exact hk hr
  · exact ⟨s, ifRunning_stopped hr k⟩

/-- The fields that a stage after IF1 may write are the others of `SameAmbient`. -/
theorem sameAmbient_update {s : State} {regs mem reserved pending taken target status events} {slots : Slots}
    (hslots : ∀ st, writesSlot s.stage st = false → slots.get st = s.slots.get st)
    (hpending : s.stage ≠ .id → pending = s.pendingStall)
    (hstatus : s.stage ≠ .id → s.stage ≠ .mem2 → status = s.status) :
    SameAmbient s { s with
      regs := regs, mem := mem, reserved := reserved, pendingStall := pending, brTaken := taken, brTarget := target
      status := status, events := events, slots := slots } :=
  ⟨rfl, rfl, rfl, rfl, rfl, rfl, hslots, fun _ => ⟨rfl, rfl⟩, hpending, hstatus⟩

/-- Moving on to a slot that the stage writes keeps what no instruction changes (R105 to R109). -/
theorem moveOn_sameAmbient {s : State} {regs mem reserved taken target events} {st : Stage}
    (hst : writesSlot s.stage st = true) (v : Option InFlight) :
    SameAmbient s { s with
      regs := regs, mem := mem, reserved := reserved, brTaken := taken, brTarget := target, events := events
      slots := s.slots.put st v } :=
  sameAmbient_update (fun _ h => get_put_of_not_written hst h s.slots v) (fun _ => rfl) fun _ _ => rfl

/-- IF1 keeps what no instruction changes (R124 to R127). -/
theorem if1Work_sameAmbient {s : State} (hs : s.stage = .if1) (c : Option Instr) : SameAmbient s (s.if1Work c) := by
  obtain ⟨_, _, _, v, w, h⟩ := if1Work_shape s c
  rw [h]
  refine ⟨rfl, rfl, rfl, rfl, rfl, rfl, fun st hst => ?_, fun hne => absurd hs hne, fun _ => rfl, fun _ _ => rfl⟩
  rw [hs] at hst
  exact (get_put_of_not_written rfl hst (s.slots.put .if1 v) w).trans (get_put_of_not_written rfl hst s.slots v)

/-- IF2 keeps what no instruction changes (R122). -/
theorem if2Work_sameAmbient {s : State} (hs : s.stage = .if2) : SameAmbient s s.if2Work := by
  obtain ⟨_, v, h⟩ := if2Work_shape s
  rw [h]
  exact moveOn_sameAmbient (hs ▸ rfl) v

/-- ID keeps what no instruction changes (R110). -/
theorem idWork_sameAmbient {s : State} (hs : s.stage = .id) (i : Instr) (W : Nat) (f : InFlight) :
    SameAmbient s (s.idWork (ownOf i W).enter f) := by
  obtain ⟨_, _, _, _, v, h⟩ := idWork_shape i W s f
  rw [h]
  exact sameAmbient_update (fun _ hst => get_put_of_not_written (hs ▸ rfl) hst s.slots v)
    (fun hne => absurd hs hne) fun hne => absurd hs hne

/-- The work of a stage on an EMPTY slot keeps what no instruction changes. -/
theorem emptyWork_sameAmbient (s : State) : SameAmbient s s.emptyWork := by
  cases hs : s.stage <;> simp only [State.emptyWork, hs]
  case if1 => exact if1Work_sameAmbient hs none
  case if2 => exact if2Work_sameAmbient hs
  case id =>
    exact sameAmbient_update (fun _ h => get_put_of_not_written (hs ▸ rfl) h s.slots none)
      (fun hne => absurd hs hne) fun hne => absurd hs hne
  case wb => exact sameAmbient_update (fun _ _ => rfl) (fun _ => rfl) fun _ _ => rfl
  all_goals exact moveOn_sameAmbient (hs ▸ rfl) none

/-- The work of a stage on the instruction in its slot keeps what no instruction changes. -/
theorem flightWork_sameAmbient {s t : State} {i : Instr} {W : Nat} {f : InFlight} (hi : f.ins = i)
    (h : s.flightWork (ownOf i W) f = .next t) : SameAmbient s t := by
  subst hi
  cases hs : s.stage <;> simp only [State.flightWork, hs] at h
  case if1 => exact Host.Outcome.next.inj h ▸ if1Work_sameAmbient hs _
  case if2 => exact Host.Outcome.next.inj h ▸ if2Work_sameAmbient hs
  case id => exact Host.Outcome.next.inj h ▸ idWork_sameAmbient hs _ _ f
  case ex =>
    obtain ⟨u, hu, h⟩ := andThen_eq_next.1 h
    obtain ⟨_, _, _, rfl⟩ := ownEx_shape hu
    rcases ifRunning_next_cases h with ⟨-, rfl⟩ | ⟨-, h⟩
    · exact sameAmbient_update (fun _ _ => rfl) (fun _ => rfl) fun _ _ => rfl
    · exact Host.Outcome.next.inj h ▸ moveOn_sameAmbient (hs ▸ rfl) (some f)
  case mem2 =>
    obtain ⟨u, hu, h⟩ := andThen_eq_next.1 h
    obtain ⟨_, _, _, _, rfl⟩ := ownMem2_shape hu
    rcases ifRunning_next_cases h with ⟨-, rfl⟩ | ⟨-, h⟩
    · exact sameAmbient_update (fun _ _ => rfl) (fun _ => rfl) fun _ hne => absurd hs hne
    · exact Host.Outcome.next.inj h ▸ sameAmbient_update
        (fun _ hst => get_put_of_not_written (hs ▸ rfl) hst s.slots (some f)) (fun _ => rfl)
        fun _ hne => absurd hs hne
  case wb => exact Host.Outcome.next.inj h ▸ sameAmbient_update (fun _ _ => rfl) (fun _ => rfl) fun _ _ => rfl
  all_goals exact Host.Outcome.next.inj h ▸ moveOn_sameAmbient (hs ▸ rfl) (some f)

/-- The meaning of an instruction keeps, at every stage, what no instruction changes. -/
theorem exec_sameAmbient {i : Instr} {s t : State} (h : exec i s = .next t) : SameAmbient s t := by
  by_cases hs : s.stage = .if1
  · by_cases hi : i = .nop
    · subst hi
      rw [exec_nop_if1 hs] at h
      exact Host.Outcome.next.inj h ▸ if1Work_sameAmbient hs none
    · rw [exec_if1 hi hs] at h
      exact Host.Outcome.next.inj h ▸ if1Work_sameAmbient hs (some i)
  · rcases exec_next_occupant hs h with ⟨-, -, rfl⟩ | ⟨-, f, -, hi, h⟩
    · exact emptyWork_sameAmbient s
    · exact flightWork_sameAmbient hi h

/-- A stage of the cycle keeps the width, the store, and every slot that it does not write, also when a fatal error
keeps it from running (R15, R61, R201). -/
theorem runStage_frame {s t : State} {st : Stage} (h : s.runStage st = .next t) :
    t.width = s.width ∧ t.store = s.store ∧
      ∀ st', writesSlot st st' = false → t.slots.get st' = s.slots.get st' := by
  rcases ifRunning_next_cases h with ⟨-, rfl⟩ | ⟨-, h⟩
  · exact ⟨rfl, rfl, fun _ _ => rfl⟩
  · obtain ⟨hwidth, hstore, -, -, -, -, hslots, -⟩ := exec_sameAmbient h
    exact ⟨hwidth, hstore, hslots⟩

/-! ### Progress: every stage of a cycle has a next state (R101) -/

/-- The occupant can do the work of the stage: it is no sentinel, and at EX and MEM2 it has passed ID (R28, R118). -/
def InFlight.readyFor (W : Nat) (st : Stage) (f : InFlight) : Prop :=
  f.ins ≠ .nop ∧ (st = .ex ∨ st = .mem2 → f.resolved W = true)

/-- The work of a stage on an occupant that is ready for it has a next state. -/
theorem flightWork_total {s : State} {W : Nat} {f : InFlight} (h : f.readyFor W s.stage) :
    ∃ t, s.flightWork (ownOf f.ins W) f = .next t := by
  obtain ⟨-, hres⟩ := h
  cases hs : s.stage <;> simp only [State.flightWork, hs]
  case ex =>
    obtain ⟨u, hu⟩ := ownEx_total (hres (.inl hs)) s
    rw [hu, andThen_next]
    exact ifRunning_total u fun _ => ⟨_, rfl⟩
  case mem2 =>
    obtain ⟨u, hu⟩ := ownMem2_total (hres (.inr hs)) s
    rw [hu, andThen_next]
    exact ifRunning_total u fun _ => ⟨_, rfl⟩
  all_goals exact ⟨_, rfl⟩

/-- At IF1 every instruction has a next state (R124). -/
theorem exec_if1_total (i : Instr) {s : State} (hs : s.stage = .if1) : ∃ t, exec i s = .next t := by
  by_cases hi : i = .nop
  · exact hi ▸ ⟨_, exec_nop_if1 hs⟩
  · exact ⟨_, exec_if1 hi hs⟩

/-- A stage after IF1 whose occupant, if it has one, is ready for it has a next state. -/
theorem runStage_total {s : State} {st : Stage} (hst : st ≠ .if1)
    (h : ∀ f, s.slots.get st = some f → f.readyFor s.width st) : ∃ t, s.runStage st = .next t := by
  refine ifRunning_total s fun _ => ?_
  cases hf : s.slots.get st with
  | none => exact ⟨_, exec_empty (s := s.atStage st) hst hf⟩
  | some f =>
    have hready := h f hf
    obtain ⟨t, ht⟩ := flightWork_total (s := s.atStage st) hready
    exact ⟨t, (exec_occupant (s := s.atStage st) hst hf hready.1).trans ht⟩

/-- What the part of a cycle that is still to run needs: a store that decodes, and at every stage to come, if its slot
is occupied, an occupant that is ready for it. -/
structure ReadyToRun (stages : List Stage) (s : State) : Prop where
  store_wf : s.store.all (Record.wf s.width) = true
  occupants : ∀ st ∈ stages, ∀ f, s.slots.get st = some f → f.readyFor s.width st

/-- A stage has a next state, and leaves the later stages of the cycle ready: it writes none of their slots. -/
theorem runStage_ready {s : State} {st : Stage} {rest : List Stage} (h : ReadyToRun (st :: rest) s) (hst : st ≠ .if1)
    (hrest : ∀ st' ∈ rest, writesSlot st st' = false) : ∃ t, s.runStage st = .next t ∧ ReadyToRun rest t := by
  obtain ⟨t, ht⟩ := runStage_total hst (h.occupants st List.mem_cons_self)
  obtain ⟨hwidth, hstore, hslots⟩ := runStage_frame ht
  refine ⟨t, ht, by rw [hwidth, hstore]; exact h.store_wf, fun st' hst' f hf => ?_⟩
  rw [hslots st' (hrest st' hst')] at hf
  rw [hwidth]
  exact h.occupants st' (List.mem_cons_of_mem _ hst') f hf

/-- A sequence of two parts has a next state when the first leads to states from which the second has one. -/
theorem andThen_total {o : Out} {k : State → Out} {P Q : State → Prop} (ho : ∃ u, o = .next u ∧ P u)
    (hk : ∀ u, P u → ∃ t, k u = .next t ∧ Q t) : ∃ t, o.andThen k = .next t ∧ Q t := by
  obtain ⟨u, rfl, hu⟩ := ho
  exact hk u hu

/-- The stages WB to IF2 have a next state, with a store that still decodes (R100). -/
theorem backStages_ready {s : State} (h : ReadyToRun [.wb, .mem3, .mem2, .mem1, .ex, .id, .if2] s) :
    ∃ t, s.backStages = .next t ∧ ReadyToRun [] t :=
  andThen_total (runStage_ready ⟨h.store_wf, h.occupants⟩ (by decide) (by decide)) fun _ h =>
  andThen_total (runStage_ready h (by decide) (by decide)) fun _ h =>
  andThen_total (runStage_ready h (by decide) (by decide)) fun _ h =>
  andThen_total (runStage_ready h (by decide) (by decide)) fun _ h =>
  andThen_total (runStage_ready h (by decide) (by decide)) fun _ h =>
  andThen_total (runStage_ready h (by decide) (by decide)) fun _ h =>
  runStage_ready h (by decide) (by decide)

/-- The fetch from a store that decodes has a next state (R124). -/
theorem runFetch_total {s : State} (h : s.store.all (Record.wf s.width) = true) : ∃ t, s.runFetch = .next t := by
  refine ifRunning_total s fun _ => ?_
  obtain ⟨i, hi⟩ := decode_fetched_total h
  simp only [hi]
  exact exec_if1_total i rfl

/-- A cycle from a state that is ready for all its stages has a next state, be it one that a fatal error stopped (R100,
R201). -/
theorem runCycle_total {s : State} (h : ReadyToRun [.wb, .mem3, .mem2, .mem1, .ex, .id, .if2] s) :
    ∃ t, s.runCycle = .next t := by
  obtain ⟨u, hu, hready⟩ := backStages_ready h
  obtain ⟨v, hv⟩ := runFetch_total hready.store_wf
  simp only [State.runCycle, hu, hv, andThen_next]
  exact ifRunning_total v fun _ => ⟨_, rfl⟩

/-- The end of a run whose cursor has left the store (R140). -/
theorem step_cursorOut {s : State} (hr : s.status = .running) (hc : ¬ s.cursorInStore) :
    step s = .next { s with status := .done .cursorOut } := by
  simp only [step, State.iterate, hr, if_neg hc]

/-- A Done engine stays as it is (R35). -/
theorem step_done {s : State} {why : DoneReason} (hd : s.status = .done why) : step s = .next s := by
  simp only [step, State.iterate, hd]

/-- An instruction that has not left ID is ready for every stage up to ID. -/
theorem readyFor_of_unresolved {W : Nat} {st : Stage} {f : InFlight} (h : f.unresolved = true) (hex : st ≠ .ex)
    (hmem2 : st ≠ .mem2) : f.readyFor W st := by
  simp only [InFlight.unresolved, Bool.and_eq_true, bne_iff_ne] at h
  obtain ⟨⟨hnop, -⟩, -⟩ := h
  exact ⟨hnop, fun e => absurd e (not_or.2 ⟨hex, hmem2⟩)⟩

/-- An instruction that has left ID is ready for every stage. -/
theorem readyFor_of_resolved {W : Nat} {st : Stage} {f : InFlight} (h : f.resolved W = true) : f.readyFor W st :=
  ⟨(resolved_spec h).1, fun _ => h⟩

/-- The occupants of a state of the invariant are ready for their stages: unresolved up to ID, resolved past it (R29). -/
theorem pipelineOk_occupant {s : State} (h : s.pipelineOk = true) {st : Stage} {f : InFlight}
    (hf : s.slots.get st = some f) : f.readyFor s.width st := by
  simp only [State.pipelineOk, Bool.and_eq_true] at h
  obtain ⟨⟨⟨⟨⟨⟨⟨h0, h1⟩, h2⟩, h3⟩, h4⟩, h5⟩, h6⟩, h7⟩ := h
  have past {v : Option InFlight} (hall : v.all (InFlight.resolved s.width) = true) (hv : v = some f) :
      f.readyFor s.width st := readyFor_of_resolved (by simpa [hv] using hall)
  have upTo {v : Option InFlight} (hall : v.all InFlight.unresolved = true) (hv : v = some f) (hex : st ≠ .ex)
      (hmem2 : st ≠ .mem2) : f.readyFor s.width st := readyFor_of_unresolved (by simpa [hv] using hall) hex hmem2
  cases st with
  | if1 => exact upTo h0 hf (by decide) (by decide)
  | if2 => exact upTo h1 hf (by decide) (by decide)
  | id => exact upTo h2 hf (by decide) (by decide)
  | ex => exact past h3 hf
  | mem1 => exact past h4 hf
  | mem2 => exact past h5 hf
  | mem3 => exact past h6 hf
  | wb => exact past h7 hf

/-- The invariant makes a state ready for any stages of a cycle. -/
theorem readyToRun_of_inv {s : State} (h : s.inv = true) (stages : List Stage) : ReadyToRun stages s := by
  simp only [State.inv, State.storeOk, Bool.and_eq_true] at h
  obtain ⟨⟨⟨⟨⟨-, -, hstore⟩, -⟩, hpipe⟩, -⟩, -⟩ := h
  exact ⟨hstore, fun _ _ _ hf => pipelineOk_occupant hpipe hf⟩

/-- Settles O40, by progress of the stages in the order in which the cycle runs them: a stage writes no slot whose own
stage is still to run, so each finds the occupant that the invariant says is ready for it. -/
theorem stepAlwaysHasANextState : Obligations.StepAlwaysHasANextState := by
  intro s hinv hfatal
  cases hstatus : s.status with
  | running =>
    by_cases hcursor : s.cursorInStore
    · rw [step_running hstatus hcursor]
      exact runCycle_total (readyToRun_of_inv hinv _)
    · exact ⟨_, step_cursorOut hstatus hcursor⟩
  | done why => exact ⟨_, step_done hstatus⟩
  | fatal info => simp [State.isFatal, State.failure?, hstatus] at hfatal

end Sys2Proof.Machine

/-! ### Registers by index, and the ends of a run (R21, R35) -/

namespace Sys2Proof.Machine

/-- An index reads a value exactly when it is the number of a register that holds it (R21). -/
theorem readReg?_eq_some {s : State} {i : Int} {v : Word} :
    s.readReg? i = some v ↔ ∃ k : Fin Config.numRegs, i = (k.val : Int) ∧ s.regs[k] = v := by
  simp only [State.readReg?, Option.map_eq_some_iff, regIndex?_eq_some]

/-- A write at register k's place leaves the places of the other registers (R21, R31). -/
theorem getElem_set_of_ne {α : Type} {xs : Vector α Config.numRegs} {j k : Fin Config.numRegs} (h : j ≠ k) (x : α) :
    (xs.set k x)[j] = xs[j] :=
  Vector.getElem_set_ne _ _ fun e => h (Fin.ext e).symm

/-- A written register reads back as the value written (R21, R22). -/
theorem readReg?_writeReg_same (s : State) (k : Fin Config.numRegs) (v : Word) :
    (s.writeReg k v).readReg? (k.val : Int) = some v :=
  readReg?_eq_some.2 ⟨k, rfl, by simp⟩

/-- Every other index reads as before (R21). -/
theorem readReg?_writeReg_other (s : State) {k : Fin Config.numRegs} (v : Word) {j : Int} (h : j ≠ (k.val : Int)) :
    (s.writeReg k v).readReg? j = s.readReg? j := by
  unfold State.readReg?
  cases hj : regIndex? j with
  | none => rfl
  | some i =>
    have hik : i ≠ k := fun e => h (e ▸ regIndex?_eq_some.1 hj)
    exact congrArg some (getElem_set_of_ne hik v)

/-- Settles O55: an index is a register exactly when it is that register's number. -/
theorem everyRegisterIsOrdinary : Obligations.EveryRegisterIsOrdinary := by
  refine ⟨fun _ _ _ => readReg?_eq_some, fun s v i j k hi => ?_⟩
  subst hi
  exact ⟨readReg?_writeReg_same s k v, readReg?_writeReg_other s v⟩

/-- A Fatal engine steps no further (R44, R201). -/
theorem step_fatal {s : State} {info : FatalInfo} (hf : s.status = .fatal info) :
    step s = .fault (.fatalError info) := by
  simp only [step, State.iterate, hf]

/-- Settles O36: the run loop tests the status before all else. -/
theorem endedRunsStayEnded : Obligations.EndedRunsStayEnded :=
  ⟨fun _ _ hd => step_done hd, fun _ _ hf => step_fatal hf⟩

/-! ### The launch (R23, R39, R41) -/

/-- The store holds the list's records at the list's indices (R41). -/
theorem storeEntry_of_lt {store : List Record} {k : Nat} (h : k < store.length) : storeEntry store k = store[k] := by
  induction store generalizing k with
  | nil => simp at h
  | cons r rest ih =>
    cases k with
    | zero => rfl
    | succ k => exact ih (by simpa using h)

/-- The store holds the NOP record from the list's end on (R41). -/
theorem storeEntry_of_le {store : List Record} {k : Nat} (h : store.length ≤ k) : storeEntry store k = nopRecord := by
  induction store generalizing k with
  | nil => rfl
  | cons r rest ih =>
    cases k with
    | zero => simp at h
    | succ k => exact ih (by simpa using h)

/-- A well-formed launch starts the run (R230). -/
theorem launch_of_wf {l : Launch} (h : l.wf = true) : launch l = .next (State.ofLaunch l) := by
  simp [launch, h]

/-- Settles O6: the launch list is the store as the model holds it, and the rest of the state is that of reset. -/
theorem launchLoadsTheProgram : Obligations.LaunchLoadsTheProgram := fun _ hwf =>
  ⟨_, launch_of_wf hwf, fun _ h => storeEntry_of_lt h, fun _ h => storeEntry_of_le h, rfl⟩

/-- An entry of the initial memory names a cell by its byte address (R78 point 6). -/
theorem memoryOk_address {W : Nat} {e : Int × Int} (h : Launch.memoryOk W e = true) :
    0 ≤ e.1 ∧ e.1.toNat % Config.wordBytes = 0 ∧ e.1.toNat < Config.memBytes := by
  simp only [Launch.memoryOk, Bool.and_eq_true, decide_eq_true_eq] at h
  obtain ⟨⟨⟨h8, h0⟩, htop⟩, -⟩ := h
  simp only [Config.wordBytes, Config.memBytes] at *
  omega

/-- The memory of a launch is canonical (R39). -/
theorem memOf_wf {W : Nat} {entries : List (Int × Int)} (h : entries.all (Launch.memoryOk W) = true) :
    Memory.wf (memOf entries) = true := by
  induction entries with
  | nil => rfl
  | cons e rest ih =>
    obtain ⟨he, hrest⟩ : Launch.memoryOk W e = true ∧ rest.all (Launch.memoryOk W) = true := by simpa using h
    obtain ⟨-, h8, htop⟩ := memoryOk_address he
    exact write_wf (ih hrest) h8 htop e.2

/-- A cell of the launch's memory holds the value given for its address, else 0 (R39). -/
theorem read_memOf {W : Nat} {entries : List (Int × Int)} (h : entries.all (Launch.memoryOk W) = true) (b : Nat) :
    Memory.read (memOf entries) b = (entries.lookup (b : Int)).getD 0 := by
  induction entries with
  | nil => rfl
  | cons e rest ih =>
    obtain ⟨he, hrest⟩ : Launch.memoryOk W e = true ∧ rest.all (Launch.memoryOk W) = true := by simpa using h
    obtain ⟨a, v⟩ := e
    obtain ⟨ha, -, -⟩ := memoryOk_address he
    change Memory.read (Memory.write (memOf rest) a.toNat v) b = _
    by_cases hab : (b : Int) = a
    · have hb : a.toNat = b := by omega
      rw [hb, read_write_same_from (memOf_wf hrest) b v]
      simp [hab]
    · have hb : b ≠ a.toNat := by omega
      rw [read_write_other _ v hb, ih hrest]
      simp [List.lookup_cons, beq_eq_false_iff_ne.2 hab]

/-- The initial memory of a well-formed launch names cells (R78 point 6). -/
theorem memory_of_launch_wf {l : Launch} (h : l.wf = true) : l.memory.all (Launch.memoryOk l.width) = true := by
  simp only [Launch.wf, Bool.and_eq_true] at h
  obtain ⟨⟨⟨-, hmem⟩, -⟩, -⟩ := h
  exact hmem

/-- Settles O5, by induction on the initial memory: each entry is written over the memory of those behind it. -/
theorem launchLoadsRegistersAndMemory : Obligations.LaunchLoadsRegistersAndMemory := fun _ hwf =>
  ⟨_, launch_of_wf hwf, fun k => by simp [State.ofLaunch, regsOf],
    fun _ _ => read_memOf (memory_of_launch_wf hwf) _⟩

/-! ### The final report (R43) -/

/-- What a listing of the non-zero values holds: for each index below n whose value is not 0, its key and value. -/
theorem mem_nonZero {n : Nat} {key : Nat → Nat} {val : Nat → Word} {e : Nat × Word} :
    e ∈ (List.range n).filterMap (fun k => if val k = 0 then none else some (key k, val k)) ↔
      ∃ k < n, val k ≠ 0 ∧ e = (key k, val k) := by
  simp [List.mem_filterMap, eq_comm]

/-- A listing of the non-zero values has rising keys when the keys rise with the index. -/
theorem nonZero_pairwise {n : Nat} {key : Nat → Nat} (hkey : StrictMono key) {val : Nat → Word} :
    (((List.range n).filterMap (fun k => if val k = 0 then none else some (key k, val k))).map Prod.fst).Pairwise
      (· < ·) := by
  rw [List.pairwise_map]
  refine List.pairwise_lt_range.filterMap _ fun j k hjk e he e' he' => ?_
  obtain ⟨-, rfl⟩ : val j ≠ 0 ∧ (key j, val j) = e := by simpa using he
  obtain ⟨-, rfl⟩ : val k ≠ 0 ∧ (key k, val k) = e' := by simpa using he'
  exact hkey hjk

/-- The registers of the report are the non-zero ones, by index (R43). -/
theorem mem_nonZeroRegs {s : State} {e : Nat × Word} :
    e ∈ s.nonZeroRegs ↔ ∃ k : Fin Config.numRegs, s.regs[k] ≠ 0 ∧ e = (k.val, s.regs[k]) := by
  have hget (k : Nat) (h : k < Config.numRegs) : s.regs.getD k 0 = s.regs[k] := by simp [Vector.getD, h]
  refine (mem_nonZero (key := fun k => k)).trans ⟨fun ⟨k, h, hne, he⟩ => ?_, fun ⟨k, hne, he⟩ => ?_⟩
  · rw [hget k h] at hne he
    exact ⟨⟨k, h⟩, hne, he⟩
  · refine ⟨k, k.2, ?_⟩
    rw [hget k k.2]
    exact ⟨hne, he⟩

/-- The cells of the report are the non-zero ones, by byte address (R43). -/
theorem mem_nonZeroCells {s : State} {e : Nat × Word} :
    e ∈ s.nonZeroCells ↔ ∃ k < Config.memWords, s.memRead (Config.wordBytes * k) ≠ 0 ∧
      e = (Config.wordBytes * k, s.memRead (Config.wordBytes * k)) :=
  mem_nonZero

/-- A report is there exactly when the run is Done, and it is that of the non-zero registers and cells (R43, R44). -/
theorem report?_eq_some {s : State} {r : Report} :
    s.report? = some r ↔ (∃ why, s.status = .done why) ∧ r = ⟨s.nonZeroRegs, s.nonZeroCells⟩ := by
  unfold State.report?
  cases s.status <;> simp [eq_comm]

/-- Settles O54: both lists filter a rising range of indices by the value's not being 0. -/
theorem reportListsTheNonZero : Obligations.ReportListsTheNonZero := by
  refine fun s => ⟨by simp [Option.isSome_iff_exists, report?_eq_some], fun r hr => ?_⟩
  obtain ⟨-, rfl⟩ := report?_eq_some.1 hr
  refine ⟨fun k v => ?_, fun e he => ?_, nonZero_pairwise strictMono_id, fun k v => ?_, fun e he => ?_,
    nonZero_pairwise fun _ _ h => Nat.mul_lt_mul_of_pos_left h (by decide)⟩
  · rw [mem_nonZeroRegs]
    constructor
    · rintro ⟨j, hne, he⟩
      obtain ⟨hj, rfl⟩ := Prod.mk.inj he
      obtain rfl := Fin.ext hj
      exact ⟨rfl, hne⟩
    · rintro ⟨rfl, hne⟩
      exact ⟨k, hne, rfl⟩
  · obtain ⟨k, -, rfl⟩ := mem_nonZeroRegs.1 he
    exact k.2
  · rw [mem_nonZeroCells]
    constructor
    · rintro ⟨j, -, hne, he⟩
      obtain ⟨hj, rfl⟩ := Prod.mk.inj he
      obtain rfl := Nat.eq_of_mul_eq_mul_left (by decide) hj
      exact ⟨rfl, hne⟩
    · rintro ⟨rfl, hne⟩
      exact ⟨k, k.2, hne, rfl⟩
  · obtain ⟨k, hk, -, rfl⟩ := mem_nonZeroCells.1 he
    exact ⟨k, hk, rfl⟩

end Sys2Proof.Machine

/-! ### What a meaning writes (R21, R31, R33, R55) -/

namespace Sys2Proof.Machine

/-- The registers, the memory, the reservations and the branch latch of the two states agree. -/
structure SameData (s t : State) : Prop where
  regs : t.regs = s.regs
  mem : t.mem = s.mem
  reserved : t.reserved = s.reserved
  brTaken : t.brTaken = s.brTaken
  brTarget : t.brTarget = s.brTarget

/-- All that the work of a stage on instruction i can do to registers, memory, reservations and branch latch. -/
inductive DataEffect (i : Instr) (s t : State) : Prop where
  /-- No instruction but those below writes any of them. -/
  | same (h : SameData s t)
  /-- A LOAD at ID reserves its destination (R113). -/
  | reserve {k : Fin Config.numRegs} (h : SameData (s.setReserved k true) t) (hs : s.stage = .id)
      (hi : loadsTo i k = true)
  /-- An ALU instruction at EX writes its result (R181). -/
  | alu {k : Fin Config.numRegs} {f : InFlight} (h : SameData (s.writeReg k (aluResult s f)) t) (hs : s.stage = .ex)
      (hi : computesTo i k = true) (hf : s.slots.slot3 = some f) (hfi : f.ins = i)
  /-- A taken branch at EX sets the branch latch (R170). -/
  | branch {f : InFlight} {rs target : Int} (h : SameData (s.takeBranch target) t) (hs : s.stage = .ex)
      (hi : i = .bnez rs target) (hf : s.slots.slot3 = some f) (hfi : f.ins = i)
  /-- A LOAD at MEM2 writes its destination with the cell at its address, and releases it (R151). -/
  | load {k : Fin Config.numRegs} {f : InFlight} {a : Nat}
      (h : SameData ((s.writeReg k (s.memRead a)).setReserved k false) t) (hs : s.stage = .mem2)
      (hi : loadsTo i k = true) (hf : s.slots.slot5 = some f) (hfi : f.ins = i)
      (ha : cellAddress? (accessAddress s f) = some a)
  /-- A STORE at MEM2 writes the cell at its address (R156). -/
  | store {f : InFlight} {rt rs offset : Int} {v : Word} {a : Nat} (h : SameData (s.memWrite a v) t)
      (hs : s.stage = .mem2) (hi : i = .store rt rs offset) (hf : s.slots.slot5 = some f) (hfi : f.ins = i)
      (hv : f.rtv = some v) (ha : cellAddress? (accessAddress s f) = some a)

/-- The events, the slots, the stall decision, the counters and the status are none of the data. -/
theorem SameData.update {s t : State} (h : SameData s t) {events slots pending cursor issue status} :
    SameData s { t with
      events := events, slots := slots, pendingStall := pending, cursor := cursor, issue := issue, status := status } :=
  ⟨h.regs, h.mem, h.reserved, h.brTaken, h.brTarget⟩

/-- The own work at EX is one of the effects (R109). -/
theorem ownEx_dataEffect {f : InFlight} {s t : State} (hs : s.stage = .ex) (hf : s.slots.slot3 = some f)
    (h : (ownOf f.ins s.width).ex f s = .next t) : DataEffect f.ins s t := by
  rcases ownEx_cases h with ⟨-, -, rfl⟩ | ⟨rs, tg, v, hi, -, rfl⟩ | ⟨op, k, a, b, hop, ha, hb, rfl⟩
  · exact .same ⟨rfl, rfl, rfl, rfl, rfl⟩
  · by_cases hv : notZero v = true
    · exact .branch (by rw [if_pos hv]; exact ⟨rfl, rfl, rfl, rfl, rfl⟩) hs hi hf rfl
    · exact .same (by rw [if_neg hv]; exact ⟨rfl, rfl, rfl, rfl, rfl⟩)
  · have hcomputes : computesTo f.ins k = true := by
      rcases hop with ⟨⟨_, _, _, hi, hk⟩ | ⟨_, _, _, hi, hk⟩, -⟩ | ⟨⟨_, _, _, hi, hk⟩ | ⟨_, _, _, hi, hk⟩, -⟩ <;>
        simp [computesTo, hi, hk]
    have hresult : op a b = aluResult s f := by
      rcases hop with ⟨⟨_, _, _, hi, -⟩ | ⟨_, _, _, hi, -⟩, rfl⟩ | ⟨⟨_, _, _, hi, -⟩ | ⟨_, _, _, hi, -⟩, rfl⟩ <;>
        simp [aluResult, hi, ha, hb]
    exact .alu (hresult ▸ ⟨rfl, rfl, rfl, rfl, rfl⟩) hs hcomputes hf rfl

/-- The own work at MEM2 is one of the effects (R107). -/
theorem ownMem2_dataEffect {f : InFlight} {s t : State} (hs : s.stage = .mem2) (hf : s.slots.slot5 = some f)
    (h : (ownOf f.ins s.width).mem2 f s = .next t) : DataEffect f.ins s t := by
  rcases ownMem2_cases h with ⟨-, -, rfl⟩ | ⟨rd, rs, off, k, base, a, hi, hk, hbase, ha, rfl⟩ |
    ⟨rt, rs, off, base, v, a, hi, hbase, hv, ha, rfl⟩ | ⟨_, _, -, -, -, rfl⟩
  · exact .same ⟨rfl, rfl, rfl, rfl, rfl⟩
  · exact .load ⟨rfl, rfl, rfl, rfl, rfl⟩ hs (by simp [loadsTo, hi, hk]) hf rfl
      (by simpa [accessAddress, hi, hbase, offsetField] using ha)
  · exact .store ⟨rfl, rfl, rfl, rfl, rfl⟩ hs hi hf rfl hv
      (by simpa [accessAddress, hi, hbase, offsetField] using ha)
  · exact .same ⟨rfl, rfl, rfl, rfl, rfl⟩

/-- Entering ID is one of the effects (R113). -/
theorem ownEnter_dataEffect {s : State} (hs : s.stage = .id) (i : Instr) (W : Nat) :
    DataEffect i s ((ownOf i W).enter s) := by
  rcases ownEnter_cases i W s with ⟨rd, rs, off, hi, h⟩ | ⟨-, h⟩ <;> rw [h]
  · cases hk : regIndex? rd with
    | none => exact .same (by rw [State.reserve, hk]; exact ⟨rfl, rfl, rfl, rfl, rfl⟩)
    | some k =>
      exact .reserve (by rw [State.reserve, hk]; exact ⟨rfl, rfl, rfl, rfl, rfl⟩) hs (by simp [loadsTo, hi, hk])
  · exact .same ⟨rfl, rfl, rfl, rfl, rfl⟩

/-- What follows the writes of a meaning, its event and its move, adds no effect. -/
theorem DataEffect.update {i : Instr} {s t : State} (h : DataEffect i s t)
    {events slots pending cursor issue status} : DataEffect i s { t with
      events := events, slots := slots, pendingStall := pending, cursor := cursor, issue := issue
      status := status } := by
  cases h with
  | same h => exact .same h.update
  | reserve h hs hi => exact .reserve h.update hs hi
  | alu h hs hi hf hfi => exact .alu h.update hs hi hf hfi
  | branch h hs hi hf hfi => exact .branch h.update hs hi hf hfi
  | load h hs hi hf hfi ha => exact .load h.update hs hi hf hfi ha
  | store h hs hi hf hfi hv ha => exact .store h.update hs hi hf hfi hv ha

/-- ID does to the data what entering it does, and nothing when CHECK_REGS fails (R110, R112). -/
theorem idWork_dataEffect {s : State} (hs : s.stage = .id) (i : Instr) (W : Nat) (f : InFlight) :
    DataEffect i s (s.idWork (ownOf i W).enter f) := by
  have henter := ownEnter_dataEffect hs i W
  rcases idWork_cases s (ownOf i W).enter f with ⟨_, _, -, h⟩ | ⟨-, -, h⟩ | ⟨-, -, h⟩ <;> rw [h]
  · exact .same ⟨rfl, rfl, rfl, rfl, rfl⟩
  · exact henter.update
  · exact henter.update

/-- IF1 writes none of the data (R124 to R127). -/
theorem if1Work_sameData (s : State) (c : Option Instr) : SameData s (s.if1Work c) := by
  obtain ⟨_, _, _, _, _, h⟩ := if1Work_shape s c
  rw [h]
  exact ⟨rfl, rfl, rfl, rfl, rfl⟩

/-- IF2 writes none of the data (R122). -/
theorem if2Work_sameData (s : State) : SameData s s.if2Work := by
  obtain ⟨_, _, h⟩ := if2Work_shape s
  rw [h]
  exact ⟨rfl, rfl, rfl, rfl, rfl⟩

/-- The work of a stage on an EMPTY slot writes none of the data (R190). -/
theorem emptyWork_sameData (s : State) : SameData s s.emptyWork := by
  obtain ⟨hregs, hmem, hreserved, htaken, htarget, -⟩ := emptyWork_frame s
  exact ⟨hregs, hmem, hreserved, htaken, htarget⟩

/-- The work of a stage on the instruction in its slot has one of the effects, that of its own work. -/
theorem flightWork_dataEffect {s t : State} {f : InFlight} (hf : s.slots.get s.stage = some f)
    (h : s.flightWork (ownOf f.ins s.width) f = .next t) : DataEffect f.ins s t := by
  cases hs : s.stage <;> simp only [State.flightWork, hs] at h hf
  case if1 => exact Host.Outcome.next.inj h ▸ .same (if1Work_sameData s _)
  case if2 => exact Host.Outcome.next.inj h ▸ .same (if2Work_sameData s)
  case id => exact Host.Outcome.next.inj h ▸ idWork_dataEffect hs _ _ f
  case ex =>
    obtain ⟨u, hu, h⟩ := andThen_eq_next.1 h
    have heffect := ownEx_dataEffect hs hf hu
    rcases ifRunning_next_cases h with ⟨-, rfl⟩ | ⟨-, h⟩
    · exact heffect
    · exact Host.Outcome.next.inj h ▸ heffect.update
  case mem2 =>
    obtain ⟨u, hu, h⟩ := andThen_eq_next.1 h
    have heffect := ownMem2_dataEffect hs hf hu
    rcases ifRunning_next_cases h with ⟨-, rfl⟩ | ⟨-, h⟩
    · exact heffect
    · exact Host.Outcome.next.inj h ▸ heffect.update
  all_goals exact Host.Outcome.next.inj h ▸ .same ⟨rfl, rfl, rfl, rfl, rfl⟩

/-- The meaning of an instruction has, at every stage, one of the effects. -/
theorem exec_dataEffect {i : Instr} {s t : State} (h : exec i s = .next t) : DataEffect i s t := by
  by_cases hs : s.stage = .if1
  · by_cases hi : i = .nop
    · subst hi
      rw [exec_nop_if1 hs] at h
      exact Host.Outcome.next.inj h ▸ .same (if1Work_sameData s none)
    · rw [exec_if1 hi hs] at h
      exact Host.Outcome.next.inj h ▸ .same (if1Work_sameData s (some i))
  · rcases exec_next_occupant hs h with ⟨-, -, rfl⟩ | ⟨-, f, hf, rfl, h⟩
    · exact .same (emptyWork_sameData s)
    · exact flightWork_dataEffect hf h

/-- A meaning changes register k only as an ALU instruction to k at EX or as a LOAD to k at MEM2 (R21). -/
theorem DataEffect.regs_cases {i : Instr} {s t : State} (h : DataEffect i s t) (k : Fin Config.numRegs) :
    t.regs[k] = s.regs[k] ∨ (s.stage = .ex ∧ computesTo i k = true) ∨ (s.stage = .mem2 ∧ loadsTo i k = true) := by
  cases h with
  | same h | reserve h | branch h | store h =>
    exact .inl (congrArg (·[k]) h.regs)
  | @alu j _ h hs hi =>
    by_cases hkj : k = j
    · exact .inr (.inl ⟨hs, hkj ▸ hi⟩)
    · exact .inl ((congrArg (·[k]) h.regs).trans (getElem_set_of_ne hkj _))
  | @load j _ _ h hs hi =>
    by_cases hkj : k = j
    · exact .inr (.inr ⟨hs, hkj ▸ hi⟩)
    · exact .inl ((congrArg (·[k]) h.regs).trans (getElem_set_of_ne hkj _))

/-- A meaning sets reservation k only as a LOAD to k at ID, and clears it only as a LOAD to k at MEM2 (R31). -/
theorem DataEffect.reserved_cases {i : Instr} {s t : State} (h : DataEffect i s t) (k : Fin Config.numRegs) :
    t.reserved[k] = s.reserved[k] ∨ (s.stage = .id ∧ loadsTo i k = true ∧ t.reserved[k] = true) ∨
      (s.stage = .mem2 ∧ loadsTo i k = true ∧ t.reserved[k] = false) := by
  cases h with
  | same h | alu h | branch h | store h =>
    exact .inl (congrArg (·[k]) h.reserved)
  | @reserve j h hs hi =>
    by_cases hkj : k = j
    · exact .inr (.inl ⟨hs, hkj ▸ hi, by simp [h.reserved, hkj]⟩)
    · exact .inl ((congrArg (·[k]) h.reserved).trans (getElem_set_of_ne hkj _))
  | @load j _ _ h hs hi =>
    by_cases hkj : k = j
    · exact .inr (.inr ⟨hs, hkj ▸ hi, by simp [h.reserved, hkj]⟩)
    · exact .inl ((congrArg (·[k]) h.reserved).trans (getElem_set_of_ne hkj _))

/-- Only a STORE changes the memory (R55). -/
theorem DataEffect.mem_eq {i : Instr} {s t : State} (h : DataEffect i s t) (hi : ∀ rt rs off, i ≠ .store rt rs off) :
    t.mem = s.mem := by
  cases h with
  | same h | reserve h | alu h | branch h | load h => exact h.mem
  | store _ _ hstore => exact absurd hstore (hi _ _ _)

/-- Only a branch changes the branch latch (R33). -/
theorem DataEffect.latch_eq {i : Instr} {s t : State} (h : DataEffect i s t) (hi : ∀ rs target, i ≠ .bnez rs target) :
    t.brTaken = s.brTaken ∧ t.brTarget = s.brTarget := by
  cases h with
  | same h | reserve h | alu h | load h | store h => exact ⟨h.brTaken, h.brTarget⟩
  | branch _ _ hbnez => exact absurd hbnez (hi _ _)

/-- Settles O29: of the effects of a meaning an ALU instruction has only the register write at EX. -/
theorem aluFrame : Obligations.AluFrame := by
  intro s t rd rs rt imm i hi h
  have heffect := exec_dataEffect h
  have hload (k) : loadsTo i k = false := by rcases hi with rfl | rfl | rfl | rfl <;> rfl
  have hcomputes (k) : computesTo i k = (regIndex? rd == some k) := by rcases hi with rfl | rfl | rfl | rfl <;> rfl
  have hmem : t.mem = s.mem := heffect.mem_eq (by rcases hi with rfl | rfl | rfl | rfl <;> simp)
  obtain ⟨htaken, htarget⟩ := heffect.latch_eq (by rcases hi with rfl | rfl | rfl | rfl <;> simp)
  have hregs (k : Fin Config.numRegs) : t.regs[k] = s.regs[k] ∨ (s.stage = .ex ∧ regIndex? rd = some k) := by
    simpa [hload, hcomputes] using heffect.regs_cases k
  have hreserved (k : Fin Config.numRegs) : t.reserved[k] = s.reserved[k] := by
    simpa [hload] using heffect.reserved_cases k
  exact ⟨fun k hk => (hregs k).resolve_right fun e => hk e.2,
    fun hs => Vector.ext fun k hk => (hregs ⟨k, hk⟩).resolve_right fun e => hs e.1,
    fun a => congrArg (Memory.read · a) hmem, Vector.ext fun k hk => hreserved ⟨k, hk⟩, htaken, htarget,
    exec_sameAmbient h⟩

/-- Settles O30: of the effects of a meaning a LOAD has only the reservation at ID and the write and release at MEM2. -/
theorem loadFrame : Obligations.LoadFrame := by
  intro s t rd rs offset h
  have heffect := exec_dataEffect h
  obtain ⟨htaken, htarget⟩ := heffect.latch_eq (by simp)
  have hregs (k : Fin Config.numRegs) : t.regs[k] = s.regs[k] ∨ (s.stage = .mem2 ∧ regIndex? rd = some k) := by
    simpa [computesTo, loadsTo] using heffect.regs_cases k
  have hreserved (k : Fin Config.numRegs) :
      t.reserved[k] = s.reserved[k] ∨ ((s.stage = .id ∨ s.stage = .mem2) ∧ regIndex? rd = some k) := by
    rcases heffect.reserved_cases k with hk | ⟨hs, hk, -⟩ | ⟨hs, hk, -⟩
    · exact .inl hk
    · exact .inr ⟨.inl hs, by simpa [loadsTo] using hk⟩
    · exact .inr ⟨.inr hs, by simpa [loadsTo] using hk⟩
  exact ⟨fun k hk => ⟨(hregs k).resolve_right fun e => hk e.2, (hreserved k).resolve_right fun e => hk e.2⟩,
    fun hs => Vector.ext fun k hk => (hregs ⟨k, hk⟩).resolve_right fun e => hs e.1,
    fun hs hs' => Vector.ext fun k hk => (hreserved ⟨k, hk⟩).resolve_right fun e => e.1.elim hs' hs,
    fun a => congrArg (Memory.read · a) (heffect.mem_eq (by simp)), htaken, htarget, exec_sameAmbient h⟩

end Sys2Proof.Machine

/-! ### What a cycle keeps: a rule for every property that its stages keep (R100) -/

namespace Sys2Proof.Machine

/-- A stage of a Running engine is the meaning of its slot's occupant at that stage. -/
theorem runStage_exec {s : State} (hr : s.status = .running) (st : Stage) :
    s.runStage st = exec (occupant (s.slots.get st)) (s.atStage st) :=
  ifRunning_running hr _

/-- What makes P a property of every state of the cycle that starts at s, up to its end-of-cycle steps. When a stage
starts, its slot still holds what it held at the start of the cycle (R102). -/
structure CycleKeeps (s : State) (P : State → Prop) : Prop where
  start : P { s with events := [] }
  stage : ∀ st u v, st ≠ .if1 → u.slots.get st = s.slots.get st → u.status = .running → P u →
    u.runStage st = .next v → P v
  fetch : ∀ i u v, P u → decode u.fetched = .ok i → v = (u.atStage .if1).if1Work (fetchContent i) → P v

/-- P holds, and the slots of the stages to come hold what they held at the start of the cycle. -/
structure KeptBefore (s : State) (P : State → Prop) (stages : List Stage) (u : State) : Prop where
  kept : P u
  occupants : ∀ st ∈ stages, u.slots.get st = s.slots.get st

/-- A stage keeps P, and it writes no slot of the stages to come. -/
theorem runStage_kept {s u v : State} {P : State → Prop} (hP : CycleKeeps s P) {st : Stage} {rest : List Stage}
    (hst : st ≠ .if1) (hrest : ∀ st' ∈ rest, writesSlot st st' = false) (h : u.runStage st = .next v)
    (hu : KeptBefore s P (st :: rest) u) : KeptBefore s P rest v := by
  refine ⟨?_, fun st' hst' => ?_⟩
  · by_cases hr : u.status = .running
    · exact hP.stage st u v hst (hu.occupants st List.mem_cons_self) hr hu.kept h
    · rw [(stopped_passes hr).1 st] at h
      exact Host.Outcome.next.inj h ▸ hu.kept
  · obtain ⟨-, -, hslots⟩ := runStage_frame h
    exact (hslots st' (hrest st' hst')).trans (hu.occupants st' (List.mem_cons_of_mem _ hst'))

/-- A stage that something follows keeps P for it. -/
theorem runStage_andThen_kept {s u t : State} {P : State → Prop} (hP : CycleKeeps s P) {st : Stage}
    {rest : List Stage} {k : State → Out} (hst : st ≠ .if1) (hrest : ∀ st' ∈ rest, writesSlot st st' = false)
    (h : (u.runStage st).andThen k = .next t) (hu : KeptBefore s P (st :: rest) u) :
    ∃ v, KeptBefore s P rest v ∧ k v = .next t := by
  obtain ⟨v, hv, ht⟩ := andThen_eq_next.1 h
  exact ⟨v, runStage_kept hP hst hrest hv hu, ht⟩

/-- The stages WB to IF2 keep P. -/
theorem backStages_kept {s t : State} {P : State → Prop} (hP : CycleKeeps s P) (h : s.backStages = .next t) :
    P t := by
  have hstart : KeptBefore s P [.wb, .mem3, .mem2, .mem1, .ex, .id, .if2] { s with events := [] } :=
    ⟨hP.start, fun _ _ => rfl⟩
  obtain ⟨_, hwb, h⟩ := runStage_andThen_kept hP (by decide) (by decide) h hstart
  obtain ⟨_, hmem3, h⟩ := runStage_andThen_kept hP (by decide) (by decide) h hwb
  obtain ⟨_, hmem2, h⟩ := runStage_andThen_kept hP (by decide) (by decide) h hmem3
  obtain ⟨_, hmem1, h⟩ := runStage_andThen_kept hP (by decide) (by decide) h hmem2
  obtain ⟨_, hex, h⟩ := runStage_andThen_kept hP (by decide) (by decide) h hmem1
  obtain ⟨_, hid, h⟩ := runStage_andThen_kept hP (by decide) (by decide) h hex
  exact (runStage_kept hP (by decide) (by decide) h hid).kept

/-- The fetch keeps P, also when a fatal error keeps it from running (R201). -/
theorem runFetch_kept {s u v : State} {P : State → Prop} (hP : CycleKeeps s P) (h : u.runFetch = .next v) (hu : P u) :
    P v := by
  by_cases hr : u.status = .running
  · obtain ⟨i, hd, hv⟩ := runFetch_next hr h
    exact hP.fetch i u v hu hd hv
  · rw [(stopped_passes hr).2.1] at h
    exact Host.Outcome.next.inj h ▸ hu

/-- The end of a cycle that no fatal error has stopped (R128, R132). -/
def State.finish (s : State) : State := s.squash.latchStall.record.drainTest

/-- A cycle leads to a state with P, by a fatal error, or to the end of a cycle from one. -/
theorem runCycle_kept {s t : State} {P : State → Prop} (hP : CycleKeeps s P) (h : s.runCycle = .next t) :
    P t ∨ ∃ u, P u ∧ t = u.finish := by
  obtain ⟨v, hv, h⟩ := andThen_eq_next.1 h
  obtain ⟨u, hu, h⟩ := andThen_eq_next.1 h
  have hPu : P u := runFetch_kept hP hu (backStages_kept hP hv)
  rcases ifRunning_next_cases h with ⟨-, rfl⟩ | ⟨-, h⟩
  · exact .inl hPu
  · exact .inr ⟨u, hPu, (Host.Outcome.next.inj h).symm⟩

/-- A property that the end of a cycle and the end of a run keep too is kept by a step. -/
theorem step_kept {s t : State} {P : State → Prop} (h : step s = .next t) (hs : P s)
    (hout : P { s with status := .done .cursorOut }) (hP : CycleKeeps s P) (hfinish : ∀ u, P u → P u.finish) : P t := by
  rcases step_next_cases h with ⟨-, -, rfl⟩ | ⟨-, -, rfl⟩ | ⟨-, -, h⟩
  · exact hs
  · exact hout
  · rcases runCycle_kept hP h with ht | ⟨u, hu, rfl⟩
    · exact ht
    · exact hfinish u hu

section finish
variable (s : State)
@[simp] theorem finish_width : s.finish.width = s.width := by simp [State.finish]
@[simp] theorem finish_store : s.finish.store = s.store := by simp [State.finish]
@[simp] theorem finish_regs : s.finish.regs = s.regs := by simp [State.finish]
@[simp] theorem finish_mem : s.finish.mem = s.mem := by simp [State.finish]
@[simp] theorem finish_issue : s.finish.issue = s.issue := by simp [State.finish]
@[simp] theorem finish_reserved : s.finish.reserved = s.reserved := by simp [State.finish]
@[simp] theorem finish_currentStall : s.finish.currentStall = s.pendingStall := by simp [State.finish]
@[simp] theorem finish_pendingStall : s.finish.pendingStall = s.pendingStall := by simp [State.finish]
@[simp] theorem finish_brTaken : s.finish.brTaken = false := by simp [State.finish]
@[simp] theorem finish_cycle : s.finish.cycle = s.cycle + 1 := by simp [State.finish]
@[simp] theorem finish_events : s.finish.events = s.events := by simp [State.finish]
@[simp] theorem finish_trace : s.finish.trace = s.trace ++ [⟨s.cycle, s.events⟩] := by simp [State.finish]

/-- The end of a cycle empties slots 1 to 3 when a branch is taken (R129). -/
theorem finish_slots : s.finish.slots =
    if s.brTaken then { s.slots with slot1 := none, slot2 := none, slot3 := none } else s.slots := by
  simp only [State.finish, drainTest_slots, record_slots, latchStall_slots, State.squash]
  split <;> rfl

/-- The end of a cycle sets the cursor to the target of a taken branch (R129). -/
theorem finish_cursor : s.finish.cursor = if s.brTaken then s.brTarget else s.cursor := by
  simp only [State.finish, drainTest_cursor, record_cursor, latchStall_cursor, State.squash]
  split <;> rfl

/-- The end of a cycle clears the target of a taken branch (R129). -/
theorem finish_brTarget : s.finish.brTarget = if s.brTaken then 0 else s.brTarget := by
  simp only [State.finish, drainTest_brTarget, record_brTarget, latchStall_brTarget, State.squash]
  split <;> rfl

/-- A cycle that has come to its end is not Fatal (R132). -/
theorem finish_not_fatal (hr : s.status = .running) : s.finish.isFatal = false := by
  unfold State.finish State.drainTest
  split <;> simp [State.isFatal, State.failure?, hr]
end finish

/-! ### Who changes registers and reservations (R21, R31) -/

/-- The instruction at a stage that loads to register k is the occupant of the slot. -/
theorem exists_of_loadsTo {v : Option InFlight} {k : Fin Config.numRegs} (h : loadsTo (occupant v) k = true) :
    ∃ f, v = some f ∧ loadsTo f.ins k = true := by
  cases v with
  | none => cases h
  | some f => exact ⟨f, rfl, h⟩

/-- The instruction at a stage that computes to register k is the occupant of the slot. -/
theorem exists_of_computesTo {v : Option InFlight} {k : Fin Config.numRegs} (h : computesTo (occupant v) k = true) :
    ∃ f, v = some f ∧ computesTo f.ins k = true := by
  cases v with
  | none => cases h
  | some f => exact ⟨f, rfl, h⟩

/-- A stage of a Running engine has one of the effects of its slot's occupant. -/
theorem runStage_dataEffect {s u : State} {st : Stage} (hr : s.status = .running) (h : s.runStage st = .next u) :
    DataEffect (occupant (s.slots.get st)) (s.atStage st) u :=
  exec_dataEffect (runStage_exec hr st ▸ h)

/-- Register k is as at the start of the cycle, or slot 3 held an ALU instruction or slot 5 a LOAD to k. -/
def RegisterAccounted (s : State) (k : Fin Config.numRegs) (u : State) : Prop :=
  u.regs[k] = s.regs[k] ∨ (∃ f, s.slots.slot3 = some f ∧ computesTo f.ins k = true) ∨
    ∃ f, s.slots.slot5 = some f ∧ loadsTo f.ins k = true

/-- Every stage accounts for the register it changes (R21). -/
theorem registerAccounted_kept (s : State) (k : Fin Config.numRegs) : CycleKeeps s (RegisterAccounted s k) where
  start := .inl rfl
  stage st u v _ hocc hr hu h := by
    have heffect := runStage_dataEffect hr h
    rw [hocc] at heffect
    rcases heffect.regs_cases k with hk | ⟨hs, hi⟩ | ⟨hs, hi⟩
    · exact hu.imp_left hk.trans
    · obtain rfl : st = .ex := hs
      exact .inr (.inl (exists_of_computesTo hi))
    · obtain rfl : st = .mem2 := hs
      exact .inr (.inr (exists_of_loadsTo hi))
  fetch i u v hu _ hv := hv ▸ hu.imp_left (congrArg (·[k]) (if1Work_sameData _ _).regs).trans

/-- Settles O46: the register is accounted for at every stage, and the end of the cycle writes no register. -/
theorem onlyAluAndLoadChangeRegisters : Obligations.OnlyAluAndLoadChangeRegisters := fun s t k h hne =>
  have hkept : RegisterAccounted s k t := step_kept h (.inl rfl) (.inl rfl) (registerAccounted_kept s k)
    fun u hu => hu.imp_left (congrArg (·[k]) (finish_regs u)).trans
  hkept.resolve_left hne

/-- Reservation k is as at the start of the cycle, or set with a LOAD to k in slot 2, or clear with one in slot 5. -/
def ReservationAccounted (s : State) (k : Fin Config.numRegs) (u : State) : Prop :=
  u.reserved[k] = s.reserved[k] ∨
    (u.reserved[k] = true ∧ ∃ f, s.slots.slot2 = some f ∧ loadsTo f.ins k = true) ∨
    (u.reserved[k] = false ∧ ∃ f, s.slots.slot5 = some f ∧ loadsTo f.ins k = true)

/-- A state with the same bit is accounted for alike. -/
theorem ReservationAccounted.congr {s u v : State} {k : Fin Config.numRegs} (h : v.reserved[k] = u.reserved[k])
    (hu : ReservationAccounted s k u) : ReservationAccounted s k v := by
  unfold ReservationAccounted
  rwa [h]

/-- Every stage accounts for the reservation it changes (R31). -/
theorem reservationAccounted_kept (s : State) (k : Fin Config.numRegs) : CycleKeeps s (ReservationAccounted s k) where
  start := .inl rfl
  stage st u v _ hocc hr hu h := by
    have heffect := runStage_dataEffect hr h
    rw [hocc] at heffect
    rcases heffect.reserved_cases k with hk | ⟨hs, hi, hv⟩ | ⟨hs, hi, hv⟩
    · exact hu.congr hk
    · obtain rfl : st = .id := hs
      exact .inr (.inl ⟨hv, exists_of_loadsTo hi⟩)
    · obtain rfl : st = .mem2 := hs
      exact .inr (.inr ⟨hv, exists_of_loadsTo hi⟩)
  fetch i u v hu _ hv := hv ▸ hu.congr (congrArg (·[k]) (if1Work_sameData _ _).reserved)

/-- Settles O47: the bit is accounted for at every stage, and the end of the cycle, the squash too, writes none. -/
theorem onlyLoadsChangeReservations : Obligations.OnlyLoadsChangeReservations := by
  intro s t k h
  have hkept : ReservationAccounted s k t := step_kept h (.inl rfl) (.inl rfl) (reservationAccounted_kept s k)
    fun u hu => hu.congr (congrArg (·[k]) (finish_reserved u))
  constructor
  · intro hs ht
    rcases hkept with hk | ⟨-, hf⟩ | ⟨hk, -⟩
    · simp [hk, hs] at ht
    · exact hf
    · simp [hk] at ht
  · intro hs ht
    rcases hkept with hk | ⟨hk, -⟩ | ⟨-, hf⟩
    · simp [hk, hs] at ht
    · simp [hk] at ht
    · exact hf

end Sys2Proof.Machine

/-! ### A completed cycle: the moves of the slots, the cursor and the branch latch (R30, R122 to R130) -/

namespace Sys2Proof.Machine

/-- A Running engine is not Fatal (R35). -/
theorem not_fatal_of_running {s : State} (hr : s.status = .running) : ¬ s.isFatal = true := by
  simp [State.isFatal, State.failure?, hr]

/-- A Fatal engine is not Running (R35). -/
theorem not_running_of_fatal {s : State} (h : s.isFatal = true) : s.status ≠ .running :=
  fun hr => not_fatal_of_running hr h

/-- What no stage from WB to IF2 writes (R15, R24, R27, R32, R61, R128). -/
structure SameFront (s t : State) : Prop where
  width : t.width = s.width
  store : t.store = s.store
  currentStall : t.currentStall = s.currentStall
  cycle : t.cycle = s.cycle
  trace : t.trace = s.trace
  cursor : t.cursor = s.cursor
  issue : t.issue = s.issue

/-- What neither of two parts of a cycle writes, the two together do not write. -/
theorem SameFront.trans {s t u : State} (h : SameFront s t) (h' : SameFront t u) : SameFront s u :=
  ⟨h'.width.trans h.width, h'.store.trans h.store, h'.currentStall.trans h.currentStall, h'.cycle.trans h.cycle,
    h'.trace.trans h.trace, h'.cursor.trans h.cursor, h'.issue.trans h.issue⟩

/-- A stage after IF1 leaves what only IF1 and the end of the cycle write. -/
theorem runStage_sameFront {s u : State} {st : Stage} (hst : st ≠ .if1) (h : s.runStage st = .next u) :
    SameFront s u := by
  rcases ifRunning_next_cases h with ⟨-, rfl⟩ | ⟨-, h⟩
  · exact ⟨rfl, rfl, rfl, rfl, rfl, rfl, rfl⟩
  · obtain ⟨hwidth, hstore, hstall, hcycle, htrace, -, -, hfetch, -⟩ := exec_sameAmbient h
    obtain ⟨hcursor, hissue⟩ := hfetch hst
    exact ⟨hwidth, hstore, hstall, hcycle, htrace, hcursor, hissue⟩

/-- A stage other than ID leaves the stall decision (R32). -/
theorem runStage_pendingStall {s u : State} {st : Stage} (hst : st ≠ .id) (h : s.runStage st = .next u) :
    u.pendingStall = s.pendingStall := by
  rcases ifRunning_next_cases h with ⟨-, rfl⟩ | ⟨-, h⟩
  · rfl
  · obtain ⟨-, -, -, -, -, -, -, -, hpending, -⟩ := exec_sameAmbient h
    exact hpending hst

/-- A stage other than EX leaves the branch latch (R33). -/
theorem runStage_latch {s u : State} {st : Stage} (hst : st ≠ .ex) (h : s.runStage st = .next u) :
    u.brTaken = s.brTaken ∧ u.brTarget = s.brTarget := by
  rcases ifRunning_next_cases h with ⟨-, rfl⟩ | ⟨-, h⟩
  · exact ⟨rfl, rfl⟩
  · cases exec_dataEffect h with
    | same h | reserve h | alu h | load h | store h => exact ⟨h.brTaken, h.brTarget⟩
    | branch _ hs => exact absurd hs hst

/-- MEM2 ends the run, or moves its slot on (R107). -/
theorem runStage_mem2_moves {s u : State} (hr : s.status = .running) (h : s.runStage .mem2 = .next u) :
    (u.isFatal = true ∧ u.slots = s.slots) ∨
    (u.status = .running ∧ u.slots = { s.slots with slot6 := s.slots.slot5 }) := by
  rcases runStage_mem2 hr h with ⟨hf, rfl⟩ | ⟨f, v, hf, -, hv, hu⟩
  · exact .inr ⟨hr, by simp [hf]⟩
  · have hstatus : v.status = .running ∨ v.isFatal = true := by
      rcases ownMem2_cases hv with ⟨-, -, rfl⟩ | ⟨_, _, _, _, _, _, -, -, -, -, rfl⟩ |
        ⟨_, _, _, _, _, _, -, -, -, -, rfl⟩ | ⟨_, _, -, -, -, rfl⟩
      · exact .inl hr
      · exact .inl hr
      · exact .inl hr
      · exact .inr rfl
    obtain ⟨_, _, _, _, rfl⟩ := ownMem2_shape hv
    rcases hu with ⟨hstop, rfl⟩ | ⟨hrun, rfl⟩
    · exact .inl ⟨hstatus.resolve_left hstop, rfl⟩
    · exact .inr ⟨hrun, by simp [hf]⟩

/-- The branch that EX takes is that of slot 3 (R170). -/
theorem takenTarget?_congr {s u : State} (h : u.slots.slot3 = s.slots.slot3) : takenTarget? u = takenTarget? s := by
  simp [takenTarget?, h]

/-- Only a BRANCH_NE_ZERO in slot 3 is taken (R170). -/
theorem takenTarget?_of_not_bnez {s : State} {f : InFlight} (hf : s.slots.slot3 = some f)
    (hno : ∀ rs tg, f.ins ≠ .bnez rs tg) : takenTarget? s = none := by
  obtain ⟨i, n, a, b⟩ := f
  cases i with
  | bnez rs tg => exact absurd rfl (hno rs tg)
  | _ => simp [takenTarget?, hf]

/-- EX moves its slot on, and takes the branch it holds (R109, R170). -/
theorem runStage_ex_moves {s u : State} (hr : s.status = .running) (h : s.runStage .ex = .next u) :
    u.status = .running ∧ u.slots = { s.slots with slot4 := s.slots.slot3 } ∧
    u.brTaken = (s.brTaken || (takenTarget? s).isSome) ∧ u.brTarget = (takenTarget? s).getD s.brTarget := by
  rcases runStage_ex hr h with ⟨hf, rfl⟩ | ⟨f, v, hf, -, hv, hu⟩
  · simp [hr, hf, takenTarget?]
  · have hlatch : v.brTaken = (s.brTaken || (takenTarget? s).isSome) ∧
        v.brTarget = (takenTarget? s).getD s.brTarget := by
      rcases ownEx_cases hv with ⟨-, hno, rfl⟩ | ⟨rs, tg, a, hi, ha, rfl⟩ | ⟨_, k, _, _, hop, -, -, rfl⟩
      · simp [takenTarget?_of_not_bnez hf hno]
      · by_cases ha0 : a = 0 <;> simp [takenTarget?, hf, hi, ha, notZero, ha0]
      · have hno (rs tg) : f.ins ≠ .bnez rs tg := by
          rcases hop with ⟨⟨_, _, _, hi, -⟩ | ⟨_, _, _, hi, -⟩, -⟩ | ⟨⟨_, _, _, hi, -⟩ | ⟨_, _, _, hi, -⟩, -⟩ <;>
            simp [hi]
        simp [takenTarget?_of_not_bnez hf hno]
    obtain ⟨_, _, _, rfl⟩ := ownEx_shape hv
    obtain rfl := (hu.resolve_left fun e => e.1 hr).2
    exact ⟨hr, by simp [hf], hlatch⟩

/-- The operands read at ID are those of the register file (R118). -/
theorem resolve_congr {s u : State} (h : u.regs = s.regs) : resolve u = resolve s := by
  have hread : u.readReg? = s.readReg? := funext fun i => by simp only [State.readReg?, h]
  funext f
  simp only [resolve, hread]

/-- ID ends the run at a bad register field, or it moves its slot on or stalls it, as its decision says (R110 to
R120). -/
theorem runStage_id_moves {s u : State} (hr : s.status = .running) (h : s.runStage .id = .next u) :
    (u.isFatal = true ∧ u.slots = s.slots) ∨
    (u.status = .running ∧ (∀ f, s.slots.slot2 = some f → firstBadField f.ins = none) ∧
      u.slots = { s.slots with slot3 := if u.pendingStall then none else s.slots.slot2.map (resolve u) }) := by
  rcases runStage_id hr h with ⟨hf, rfl⟩ | ⟨f, hf, -, hu⟩
  · exact .inr ⟨hr, by simp [hf], by simp [State.idEmpty, hf]⟩
  · obtain ⟨bits, henter⟩ := ownEnter_shape f.ins s.width (s.atStage .id)
    have hgood (hok : firstBadField f.ins = none) (g : InFlight) (hg : s.slots.slot2 = some g) :
        firstBadField g.ins = none := by
      obtain rfl : f = g := Option.some.inj (hf.symm.trans hg)
      exact hok
    rcases idWork_cases (s.atStage .id) (ownOf f.ins s.width).enter f with
      ⟨_, _, -, hw⟩ | ⟨hok, -, hw⟩ | ⟨hok, -, hw⟩ <;> rw [hw] at hu <;> subst hu
    · exact .inl ⟨rfl, rfl⟩
    · exact .inr ⟨by simp [henter, hr], hgood hok, by simp [henter]⟩
    · refine .inr ⟨by simp [henter, hr], hgood hok, ?_⟩
      simp only [setPending_slots, setPending_pendingStall, setSlot_slots, slots_put_ex, emit_slots, henter,
        atStage_slots, hf, Option.map_some]
      rfl

/-- What IF1 loads, by the record at the cursor (R124). -/
theorem fetchContent_eq_fetchedFlight {s : State} {i : Instr} (h : decode s.fetched = .ok i) :
    ((fetchContent i).map fun i => InFlight.mk i s.issue none none) = fetchedFlight s := by
  unfold State.fetched at h
  by_cases hi : i = .nop <;> simp [fetchContent, fetchedFlight, h, hi]

/-- IF1 loads slot 0, and, unless ID stalls, moves the fetch on and counts it (R124 to R126). -/
theorem if1Work_moves (s : State) (c : Option Instr) :
    (s.if1Work c).pendingStall = s.pendingStall ∧
    (s.if1Work c).slots = { s.slots with
      slot0 := c.map fun i => InFlight.mk i s.issue none none
      slot1 := if s.pendingStall then s.slots.slot1 else c.map fun i => InFlight.mk i s.issue none none } ∧
    (s.if1Work c).cursor = (if s.pendingStall then s.cursor else s.cursor + 1) ∧
    (s.if1Work c).issue = if s.pendingStall then s.issue else s.issue + 1 := by
  cases hp : s.pendingStall <;> cases c <;> simp [State.if1Work, hp]

/-- The end of the stages of a cycle that started at s, before its end-of-cycle steps (R100). -/
structure CycleMoves (s u : State) : Prop where
  running : u.status = .running
  cycle : u.cycle = s.cycle
  trace : u.trace = s.trace
  cursor : u.cursor = if u.pendingStall then s.cursor else s.cursor + 1
  issue : u.issue = if u.pendingStall then s.issue else s.issue + 1
  brTaken : u.brTaken = (s.brTaken || (takenTarget? s).isSome)
  brTarget : u.brTarget = (takenTarget? s).getD s.brTarget
  slots : u.slots =
    { slot0 := fetchedFlight s
      slot1 := if u.pendingStall then s.slots.slot1 else fetchedFlight s
      slot2 := if u.pendingStall then s.slots.slot2 else s.slots.slot1
      slot3 := if u.pendingStall then none else s.slots.slot2.map (resolve u)
      slot4 := s.slots.slot3
      slot5 := s.slots.slot4
      slot6 := s.slots.slot5
      slot7 := s.slots.slot6 }

section chain
variable {s t wb mem3 mem2 mem1 ex id if2 if1 : State}

/-- The stages WB to IF2 leave what only IF1 and the end of the cycle write. -/
theorem CycleChain.sameFront (h : CycleChain s t wb mem3 mem2 mem1 ex id if2 if1) : SameFront s if2 := by
  have front3 : SameFront s mem3 := by rw [h.mem3_eq, h.wb_eq]; exact ⟨rfl, rfl, rfl, rfl, rfl, rfl, rfl⟩
  have front1 : SameFront mem2 mem1 := by rw [h.mem1_eq]; exact ⟨rfl, rfl, rfl, rfl, rfl, rfl, rfl⟩
  have frontIf2 : SameFront id if2 := by rw [h.if2_eq]; exact ⟨rfl, rfl, rfl, rfl, rfl, rfl, rfl⟩
  exact front3.trans <| (runStage_sameFront (by decide) h.mem2_next).trans <| front1.trans <|
    (runStage_sameFront (by decide) h.ex_next).trans <| (runStage_sameFront (by decide) h.id_next).trans frontIf2

/-- The stages WB to IF2 move the slots on: those past EX always, the one at ID as its decision says (R30). -/
theorem CycleChain.moves_to_if2 (hr : s.status = .running) (h : CycleChain s t wb mem3 mem2 mem1 ex id if2 if1) :
    if2.brTaken = (s.brTaken || (takenTarget? s).isSome) ∧ if2.brTarget = (takenTarget? s).getD s.brTarget ∧
    if2.slots =
      { slot0 := s.slots.slot0
        slot1 := s.slots.slot1
        slot2 := if if2.pendingStall then s.slots.slot2 else s.slots.slot1
        slot3 := if if2.pendingStall then none else s.slots.slot2.map (resolve if2)
        slot4 := s.slots.slot3
        slot5 := s.slots.slot4
        slot6 := s.slots.slot5
        slot7 := s.slots.slot6 } := by
  obtain ⟨hwb, hmem3, hmem2, rmem2, hmem1, hex, rex, hid, rid, hif2, -, -⟩ := h
  have rmem3 : mem3.status = .running := by rw [hmem3, hwb]; exact hr
  have rmem1 : mem1.status = .running := by rw [hmem1]; exact rmem2
  obtain ⟨-, slots2⟩ := (runStage_mem2_moves rmem3 hmem2).resolve_left fun e => not_fatal_of_running rmem2 e.1
  obtain ⟨-, slotsEx, taken, target⟩ := runStage_ex_moves rmem1 hex
  obtain ⟨-, -, slotsId⟩ := (runStage_id_moves rex hid).resolve_left fun e => not_fatal_of_running rid e.1
  obtain ⟨taken2, target2⟩ := runStage_latch (by decide) hmem2
  obtain ⟨takenId, targetId⟩ := runStage_latch (by decide) hid
  have slots3 : mem3.slots = { s.slots with slot7 := s.slots.slot6 } := by rw [hmem3, hwb]
  have slots1 : mem1.slots =
      { s.slots with slot5 := s.slots.slot4, slot6 := s.slots.slot5, slot7 := s.slots.slot6 } := by
    simp only [hmem1, slots2, slots3]
  have hbranch : takenTarget? mem1 = takenTarget? s := takenTarget?_congr (by rw [slots1])
  have taken1 : mem1.brTaken = s.brTaken := by rw [hmem1]; exact taken2.trans (by rw [hmem3, hwb])
  have target1 : mem1.brTarget = s.brTarget := by rw [hmem1]; exact target2.trans (by rw [hmem3, hwb])
  have hresolve : resolve if2 = resolve id := resolve_congr (by rw [hif2])
  have pendingIf2 : if2.pendingStall = id.pendingStall := by rw [hif2]
  refine ⟨?_, ?_, ?_⟩
  · rw [← hbranch, ← taken1, ← taken, ← takenId, hif2]
  · rw [← hbranch, ← target1, ← target, ← targetId, hif2]
  · rw [hresolve, pendingIf2, hif2]
    cases hp : id.pendingStall <;> simp [slotsId, slotsEx, slots1, hp]

/-- A whole chain of stages makes these moves. -/
theorem CycleChain.moves (hr : s.status = .running) (h : CycleChain s t wb mem3 mem2 mem1 ex id if2 if1) :
    CycleMoves s if1 := by
  obtain ⟨taken, target, slotsIf2⟩ := h.moves_to_if2 hr
  have hfront := h.sameFront
  have hfetched : fetchedFlight if2 = fetchedFlight s := by
    simp only [fetchedFlight, hfront.store, hfront.cursor, hfront.issue]
  obtain ⟨i, hd, hif1⟩ := h.if1_next
  have hrunning : if1.status = .running := by rw [hif1, if1Work_status, h.if2_eq]; exact h.id_running
  obtain ⟨hpending, hslots, hcursor, hissue⟩ := if1Work_moves (if2.atStage .if1) (fetchContent i)
  obtain ⟨hregs, -, -, htaken, htarget, -, -, -, hcycle, htrace, -⟩ :=
    if1Work_frame (if2.atStage .if1) (fetchContent i)
  rw [← hif1] at hpending hslots hcursor hissue hregs htaken htarget hcycle htrace
  simp only [atStage_issue, fetchContent_eq_fetchedFlight hd, hfetched, atStage_slots, atStage_pendingStall] at *
  refine ⟨hrunning, hcycle.trans hfront.cycle, htrace.trans hfront.trace, ?_, ?_, htaken.trans taken,
    htarget.trans target, ?_⟩
  · rw [hcursor, hpending, atStage_cursor, hfront.cursor]
    rfl
  · rw [hissue, hpending, hfront.issue]
    rfl
  · rw [hslots, hpending, resolve_congr hregs, slotsIf2]
    rfl

end chain

/-- A cycle of a Running engine ends in a fatal error, of which neither the counter nor the trace knows, or it makes its
moves and comes to its end (R128, R201). -/
theorem runCycle_fatal_or_moves {s t : State} (hr : s.status = .running) (h : s.runCycle = .next t) :
    (t.isFatal = true ∧ t.cycle = s.cycle ∧ t.trace = s.trace) ∨ ∃ u, CycleMoves s u ∧ t = u.finish := by
  rcases runCycle_next hr h with ⟨wb, mem3, hwb, hmem3, hstop⟩ | ⟨_, _, _, _, _, _, _, if1, hchain⟩
  · have front3 : SameFront s mem3 := by rw [hmem3, hwb]; exact ⟨rfl, rfl, rfl, rfl, rfl, rfl, rfl⟩
    have rmem3 : mem3.status = .running := by rw [hmem3, hwb]; exact hr
    rcases hstop with ⟨hmem2, hstop⟩ | ⟨mem2, mem1, hmem2, rmem2, hmem1, hstop⟩
    · have front2 := front3.trans (runStage_sameFront (by decide) hmem2)
      obtain ⟨hfatal, -⟩ := (runStage_mem2_moves rmem3 hmem2).resolve_right fun e => hstop e.1
      exact .inl ⟨hfatal, front2.cycle, front2.trace⟩
    · have front1 : SameFront mem2 mem1 := by rw [hmem1]; exact ⟨rfl, rfl, rfl, rfl, rfl, rfl, rfl⟩
      have rmem1 : mem1.status = .running := by rw [hmem1]; exact rmem2
      rcases hstop with ⟨hex, hstop⟩ | ⟨ex, hex, rex, hid, hstop⟩
      · exact absurd (runStage_ex_moves rmem1 hex).1 hstop
      · have frontId := front3.trans <| (runStage_sameFront (by decide) hmem2).trans <| front1.trans <|
          (runStage_sameFront (by decide) hex).trans (runStage_sameFront (by decide) hid)
        obtain ⟨hfatal, -⟩ := (runStage_id_moves rex hid).resolve_right fun e => hstop e.1
        exact .inl ⟨hfatal, frontId.cycle, frontId.trace⟩
  · exact .inr ⟨if1, hchain.moves hr, hchain.end_eq⟩

/-- Settles O48: a step that runs a cycle to its end makes one record, and every other step ends the run. -/
theorem cycleCounterCountsRecords : Obligations.CycleCounterCountsRecords := by
  refine ⟨rfl, fun s t h => ?_⟩
  rcases step_next_cases h with ⟨why, hdone, rfl⟩ | ⟨-, -, rfl⟩ | ⟨hr, -, h⟩
  · exact .inr ⟨rfl, rfl, by simp [hdone]⟩
  · exact .inr ⟨rfl, rfl, by simp⟩
  · rcases runCycle_fatal_or_moves hr h with ⟨hfatal, hcycle, htrace⟩ | ⟨u, hu, rfl⟩
    · exact .inr ⟨hcycle, htrace, not_running_of_fatal hfatal⟩
    · exact .inl ⟨by simp [hu.cycle], by simp [hu.cycle, hu.trace], finish_not_fatal u hu.running⟩

/-- A step that counts a cycle made the moves of one (R131). -/
theorem step_moves {s t : State} (hr : s.status = .running) (h : step s = .next t) (hcycle : t.cycle = s.cycle + 1) :
    ∃ u, CycleMoves s u ∧ t = u.finish := by
  rcases step_next_cases h with ⟨why, hdone, rfl⟩ | ⟨-, -, rfl⟩ | ⟨-, -, h⟩
  · simp at hcycle
  · simp at hcycle
  · refine (runCycle_fatal_or_moves hr h).resolve_left fun ⟨_, hsame, _⟩ => ?_
    omega

/-- Settles O50: the moves of a completed cycle, of which a taken branch empties slots 1 to 3. -/
theorem slotsMoveInOrder : Obligations.SlotsMoveInOrder := by
  intro s t hr h hcycle
  obtain ⟨u, hu, rfl⟩ := step_moves hr h hcycle
  rw [finish_slots, resolve_congr (finish_regs u), hu.slots]
  cases u.brTaken
  · cases u.pendingStall
    · cases s.slots.slot2 <;> simp
    · simp
  · simp

end Sys2Proof.Machine

/-! ### Every step keeps the invariant -/

namespace Sys2Proof.Machine

/-- The occupant of a stage's slot as the invariant has it: up to ID not resolved, past ID resolved, and up to EX a
branch with its target in the store (R29, R78 point 4). -/
def InFlight.okAt (W : Nat) (st : Stage) (f : InFlight) : Prop :=
  match st with
  | .if1 | .if2 | .id => f.unresolved = true ∧ f.targetOk = true
  | .ex => f.resolved W = true ∧ f.targetOk = true
  | .mem1 | .mem2 | .mem3 | .wb => f.resolved W = true

/-- Every slot's occupant is as the invariant has it. -/
def Slots.OccupantsOk (W : Nat) (sl : Slots) : Prop := ∀ st f, sl.get st = some f → f.okAt W st

/-- What the invariant says of the slots, stage by stage (R29). -/
theorem occupantsOk_iff {s : State} :
    s.slots.OccupantsOk s.width ↔ s.pipelineOk = true ∧ s.targetsOk = true := by
  simp only [State.pipelineOk, State.targetsOk, Bool.and_eq_true, Option.all_eq_true]
  constructor
  · intro h
    exact ⟨⟨⟨⟨⟨⟨⟨⟨fun f hf => (h .if1 f hf).1, fun f hf => (h .if2 f hf).1⟩, fun f hf => (h .id f hf).1⟩,
      fun f hf => (h .ex f hf).1⟩, fun f hf => h .mem1 f hf⟩, fun f hf => h .mem2 f hf⟩,
      fun f hf => h .mem3 f hf⟩, fun f hf => h .wb f hf⟩,
      ⟨⟨fun f hf => (h .if1 f hf).2, fun f hf => (h .if2 f hf).2⟩, fun f hf => (h .id f hf).2⟩,
      fun f hf => (h .ex f hf).2⟩
  · rintro ⟨⟨⟨⟨⟨⟨⟨⟨h0, h1⟩, h2⟩, h3⟩, h4⟩, h5⟩, h6⟩, h7⟩, ⟨⟨t0, t1⟩, t2⟩, t3⟩ st f hf
    cases st with
    | if1 => exact ⟨h0 f hf, t0 f hf⟩
    | if2 => exact ⟨h1 f hf, t1 f hf⟩
    | id => exact ⟨h2 f hf, t2 f hf⟩
    | ex => exact ⟨h3 f hf, t3 f hf⟩
    | mem1 => exact h4 f hf
    | mem2 => exact h5 f hf
    | mem3 => exact h6 f hf
    | wb => exact h7 f hf

/-- A slot may be loaded with what is right for its stage. -/
theorem Slots.OccupantsOk.put {W : Nat} {sl : Slots} (h : sl.OccupantsOk W) {st : Stage} {v : Option InFlight}
    (hv : ∀ f, v = some f → f.okAt W st) : (sl.put st v).OccupantsOk W := by
  intro st' f hf
  by_cases hst : st' = st
  · subst hst
    rw [slots_get_put_same] at hf
    exact hv f hf
  · rw [slots_get_put_other sl v hst] at hf
    exact h st' f hf

/-- A slot may be emptied. -/
theorem Slots.OccupantsOk.put_none {W : Nat} {sl : Slots} (h : sl.OccupantsOk W) (st : Stage) :
    (sl.put st none).OccupantsOk W :=
  h.put fun _ hf => by cases hf

/-- What the invariant claims of every state, Fatal ones included. -/
structure ContentOk (s : State) : Prop where
  mem_wf : Memory.wf s.mem = true
  store_ok : s.storeOk = true
  values_ok : s.valuesOk = true
  occupants : s.slots.OccupantsOk s.width

/-- The invariant is that of the content and, between the cycles of a run that is not Fatal, of latches, cursor and
labels. -/
theorem inv_iff {s : State} :
    s.inv = true ↔
      ContentOk s ∧ (s.isFatal = true ∨ (s.latchesOk = true ∧ s.cursorOk = true ∧ s.inOrder = true)) := by
  simp only [State.inv, Bool.and_eq_true, Bool.or_eq_true]
  constructor
  · rintro ⟨⟨⟨⟨⟨hmem, hstore⟩, hvalues⟩, hpipe⟩, htargets⟩, hcontrol⟩
    exact ⟨⟨hmem, hstore, hvalues, occupantsOk_iff.2 ⟨hpipe, htargets⟩⟩,
      hcontrol.imp_right fun ⟨⟨a, b⟩, c⟩ => ⟨a, b, c⟩⟩
  · rintro ⟨⟨hmem, hstore, hvalues, hocc⟩, hcontrol⟩
    obtain ⟨hpipe, htargets⟩ := occupantsOk_iff.1 hocc
    exact ⟨⟨⟨⟨⟨hmem, hstore⟩, hvalues⟩, hpipe⟩, htargets⟩, hcontrol.imp_right fun ⟨a, b, c⟩ => ⟨⟨a, b⟩, c⟩⟩

/-- The content of a state with the same width, store, registers, memory and slots is as good. -/
theorem ContentOk.congr {s t : State} (h : ContentOk s) (hwidth : t.width = s.width) (hstore : t.store = s.store)
    (hregs : t.regs = s.regs) (hmem : t.mem = s.mem) (hslots : t.slots = s.slots) : ContentOk t := by
  refine ⟨hmem ▸ h.mem_wf, ?_, ?_, by rw [hslots, hwidth]; exact h.occupants⟩
  · simpa only [State.storeOk, hwidth, hstore] using h.store_ok
  · simpa only [State.valuesOk, hwidth, hregs, hmem] using h.values_ok

/-! #### Words -/

/-- A word is its own word (R9). -/
theorem wordOk_ofInt (W : Nat) (n : Int) : wordOk W (Word.ofInt W n) = true := by
  simp [wordOk, Word.Canonical, Word.ofInt]

/-- The value an unlisted cell reads as is a word (R39). -/
theorem wordOk_zero (W : Nat) : wordOk W 0 = true := by
  simp [wordOk, Word.Canonical, Word.ofInt]

/-- An ALU result is a word, whatever its operands (R182). -/
theorem wordOk_aluResult (s : State) (f : InFlight) : wordOk s.width (aluResult s f) = true := by
  unfold aluResult wordAdd wordSub
  split <;> exact wordOk_ofInt _ _

/-- The values are words: those of the registers and those of the listed cells. -/
theorem valuesOk_iff {s : State} :
    s.valuesOk = true ↔ (∀ k : Fin Config.numRegs, wordOk s.width s.regs[k] = true) ∧
      ∀ e ∈ s.mem, wordOk s.width e.2 = true := by
  simp [State.valuesOk]

/-- A written register holds the value written, the others what they held. -/
theorem wordOk_set {W : Nat} {xs : Vector Word Config.numRegs} (h : ∀ k : Fin Config.numRegs, wordOk W xs[k] = true)
    (j : Fin Config.numRegs) {v : Word} (hv : wordOk W v = true) (k : Fin Config.numRegs) :
    wordOk W (xs.set j v)[k] = true := by
  by_cases hkj : k = j
  · simpa [hkj] using hv
  · rw [getElem_set_of_ne hkj]
    exact h k

/-- A cell of a memory of words reads as a word. -/
theorem wordOk_read {W : Nat} {m : Memory} (h : ∀ e ∈ m, wordOk W e.2 = true) (a : Nat) :
    wordOk W (Memory.read m a) = true := by
  induction m with
  | nil => exact wordOk_zero W
  | cons e m ih =>
    obtain ⟨b, v⟩ := e
    simp only [Memory.read]
    split
    · exact h (b, v) List.mem_cons_self
    · exact ih fun e he => h e (List.mem_cons_of_mem _ he)

/-- A write lists no value but the one written and those listed before. -/
theorem mem_of_mem_write {m : Memory} {a : Nat} {v : Word} {e : Nat × Word} (h : e ∈ Memory.write m a v) :
    e = (a, v) ∨ e ∈ m := by
  induction m with
  | nil =>
    simp only [Memory.write] at h
    split at h <;> simp_all
  | cons d m ih =>
    obtain ⟨b, u⟩ := d
    simp only [Memory.write] at h
    split at h
    · split at h
      · exact .inr h
      · exact List.mem_cons.1 h
    · split at h
      · split at h
        · exact .inr (List.mem_cons_of_mem _ h)
        · exact (List.mem_cons.1 h).imp_right (List.mem_cons_of_mem _)
      · rcases List.mem_cons.1 h with rfl | h
        · exact .inr List.mem_cons_self
        · exact (ih h).imp_right (List.mem_cons_of_mem _)

/-- A meaning writes only words to registers and cells, and keeps the memory canonical (R9, R51). -/
theorem ContentOk.effect {i : Instr} {s t : State} (hs : ContentOk s) (h : DataEffect i s t)
    (hwidth : t.width = s.width) : Memory.wf t.mem = true ∧ t.valuesOk = true := by
  obtain ⟨hregs, hcells⟩ := valuesOk_iff.1 hs.values_ok
  rw [valuesOk_iff, hwidth]
  cases h with
  | same h | reserve h | branch h => exact h.mem ▸ h.regs ▸ ⟨hs.mem_wf, hregs, hcells⟩
  | @alu k f h => exact h.mem ▸ h.regs ▸ ⟨hs.mem_wf, wordOk_set hregs k (wordOk_aluResult s f), hcells⟩
  | @load k _ a h => exact h.mem ▸ h.regs ▸ ⟨hs.mem_wf, wordOk_set hregs k (wordOk_read hcells a), hcells⟩
  | @store f _ _ _ v _ h _ _ hf _ hv ha =>
    obtain ⟨h8, htop, -⟩ := cellAddress?_some ha
    have hresolved : f.resolved s.width = true := hs.occupants .mem2 f hf
    simp only [InFlight.resolved, Bool.and_eq_true, hv, Option.all_some] at hresolved
    obtain ⟨-, hword⟩ := hresolved
    refine h.mem ▸ h.regs ▸ ⟨write_wf hs.mem_wf h8 htop _, hregs, fun e he => ?_⟩
    rcases mem_of_mem_write he with rfl | he
    · exact hword
    · exact hcells e he

/-! #### Slots -/

/-- A used register field that CHECK_REGS has let through is a register (R112). -/
theorem usedField_ok {i : Instr} (h : firstBadField i = none) {e : FatalField × Int} (he : e ∈ usedFields i) :
    ∃ k, regIndex? e.2 = some k := by
  have hgood := List.find?_eq_none.1 h e he
  exact Option.ne_none_iff_exists'.1 (by simpa using hgood)

/-- The operands that ID reads from registers of words are there and are words (R118). -/
theorem resolve_resolved {u : State} {W : Nat} {f : InFlight}
    (hregs : ∀ k : Fin Config.numRegs, wordOk W u.regs[k] = true) (hnop : f.ins ≠ .nop) (hgood : firstBadField f.ins = none) : (resolve u f).resolved W = true := by
  have hread (r : Int) (field : FatalField) (hr : (field, r) ∈ usedFields f.ins) :
      ∃ v, u.readReg? r = some v ∧ wordOk W v = true := by
    obtain ⟨k, hk⟩ := usedField_ok hgood hr
    exact ⟨u.regs[k], by simp [State.readReg?, hk], hregs k⟩
  have hrs : ∃ r, rsField f.ins = some r := by
    cases hi : f.ins with
    | nop => exact absurd hi hnop
    | _ => exact ⟨_, rfl⟩
  obtain ⟨r, hr⟩ := hrs
  obtain ⟨a, ha, hword⟩ := hread r .rs (by simp [usedFields, hr])
  cases ht : rtField f.ins with
  | none => simp [InFlight.resolved, resolve, hnop, hgood, hr, ha, hword, ht]
  | some q =>
    obtain ⟨b, hb, hwordb⟩ := hread q .rt (by simp [usedFields, ht])
    simp [InFlight.resolved, resolve, hnop, hgood, hr, ha, hword, ht, hb, hwordb]

/-- An instruction that leaves ID is right for EX (R112, R118). -/
theorem resolve_okAt {u : State} {f : InFlight} (hvalues : u.valuesOk = true) (hf : f.okAt u.width .id)
    (hgood : firstBadField f.ins = none) : (resolve u f).okAt u.width .ex := by
  obtain ⟨hunresolved, htarget⟩ := hf
  simp only [InFlight.unresolved, Bool.and_eq_true, bne_iff_ne] at hunresolved
  obtain ⟨⟨hnop, -⟩, -⟩ := hunresolved
  exact ⟨resolve_resolved (valuesOk_iff.1 hvalues).1 hnop hgood, htarget⟩

/-- A stage loads its next slot with what is right there (R29, R30). -/
theorem runStage_occupantsOk {s u : State} {st : Stage} (hst : st ≠ .if1) (hr : s.status = .running)
    (hs : s.slots.OccupantsOk s.width) (hwidth : u.width = s.width) (hvalues : u.valuesOk = true)
    (h : s.runStage st = .next u) : u.slots.OccupantsOk s.width := by
  cases st with
  | if1 => exact absurd rfl hst
  | wb => rw [runStage_wb hr h]; exact hs
  | mem3 => rw [runStage_mem3 hr h]; exact hs.put (st := .wb) fun f hf => hs .mem3 f hf
  | mem1 => rw [runStage_mem1 hr h]; exact hs.put (st := .mem2) fun f hf => hs .mem1 f hf
  | mem2 =>
    rcases runStage_mem2_moves hr h with ⟨-, hslots⟩ | ⟨-, hslots⟩ <;> rw [hslots]
    · exact hs
    · exact hs.put (st := .mem3) fun f hf => hs .mem2 f hf
  | ex =>
    obtain ⟨-, hslots, -⟩ := runStage_ex_moves hr h
    rw [hslots]
    exact hs.put (st := .mem1) fun f hf => (hs .ex f hf).1
  | id =>
    rcases runStage_id_moves hr h with ⟨-, hslots⟩ | ⟨-, hgood, hslots⟩ <;> rw [hslots]
    · exact hs
    · refine hs.put (st := .ex) fun f hf => ?_
      split at hf
      · cases hf
      · obtain ⟨g, hg, rfl⟩ := Option.map_eq_some_iff.1 hf
        exact hwidth ▸ resolve_okAt hvalues (hwidth ▸ hs .id g hg) (hgood g hg)
  | if2 =>
    rw [runStage_if2 hr h]
    dsimp only
    split
    · exact hs
    · exact hs.put (st := .id) fun f hf => hs .if2 f hf

/-- A stage keeps the content. -/
theorem ContentOk.runStage {s u : State} {st : Stage} (hs : ContentOk s) (hst : st ≠ .if1) (hr : s.status = .running)
    (h : s.runStage st = .next u) : ContentOk u := by
  obtain ⟨hwidth, hstore, -⟩ := runStage_frame h
  have hstage : ContentOk (s.atStage st) := hs.congr rfl rfl rfl rfl rfl
  obtain ⟨hmem, hvalues⟩ := hstage.effect (runStage_dataEffect hr h) hwidth
  refine ⟨hmem, ?_, hvalues, hwidth ▸ runStage_occupantsOk hst hr hs.occupants hwidth hvalues h⟩
  simpa only [State.storeOk, hwidth, hstore] using hs.store_ok

/-- A well-formed record that is a branch has its target in the store (R78 point 4). -/
theorem decode_targetOk {W : Nat} {r : Record} (hwf : r.wf W = true) {i : Instr} (h : decode r = .ok i) (n : Nat) :
    (InFlight.mk i n none none).targetOk = true := by
  obtain ⟨hshape, hoffset⟩ : r.shapeOk = true ∧ r.offsetOk W = true := by simpa [Record.wf] using hwf
  obtain ⟨code, rd, rs, rt, offset⟩ := r
  cases rt with
  | none =>
    have hc : codeHasRt code = false := by simpa [Record.shapeOk] using hshape
    rcases codeHasRt_eq_false hc with rfl | rfl | rfl | rfl | rfl <;> cases h
    · rfl
    · simpa [Record.offsetOk, InFlight.targetOk] using hoffset
    all_goals rfl
  | some rt =>
    have hc : codeHasRt code = true := by simpa [Record.shapeOk] using hshape
    rcases codeHasRt_eq_true hc with rfl | rfl | rfl <;> cases h <;> rfl

/-- What IF1 loads is right for slots 0 and 1 (R124). -/
theorem fetched_okAt {s : State} (hs : ContentOk s) {i : Instr} (hd : decode s.fetched = .ok i) {f : InFlight}
    (hf : ((fetchContent i).map fun i => InFlight.mk i s.issue none none) = some f) :
    f.unresolved = true ∧ f.targetOk = true := by
  have hstore := hs.store_ok
  simp only [State.storeOk, Bool.and_eq_true] at hstore
  obtain ⟨-, hwf⟩ := hstore
  by_cases hi : i = .nop
  · simp [fetchContent, hi] at hf
  · simp only [fetchContent, if_neg hi, Option.map_some, Option.some.injEq] at hf
    subst hf
    exact ⟨by simp [InFlight.unresolved, hi], decode_targetOk (storeEntry_wf hwf _) hd _⟩

/-- The fetch keeps the content (R124 to R127). -/
theorem ContentOk.fetch {s : State} (hs : ContentOk s) {i : Instr} (hd : decode s.fetched = .ok i) :
    ContentOk ((s.atStage .if1).if1Work (fetchContent i)) := by
  obtain ⟨hregs, hmem, -, -, -, hwidth, hstore, -⟩ := if1Work_frame (s.atStage .if1) (fetchContent i)
  obtain ⟨-, hslots, -⟩ := if1Work_moves (s.atStage .if1) (fetchContent i)
  have hload := hs.occupants.put (st := .if1) fun f hf => fetched_okAt hs hd hf
  have hnext : ContentOk { s with slots := ((s.atStage .if1).if1Work (fetchContent i)).slots } := by
    refine ⟨hs.mem_wf, hs.store_ok, hs.values_ok, ?_⟩
    dsimp only
    rw [hslots]
    split
    · exact hload
    · exact hload.put (st := .if2) fun f hf => fetched_okAt hs hd hf
  exact hnext.congr hwidth hstore hregs hmem rfl

/-- The end of a cycle keeps the content: a squash only empties slots (R128 to R132). -/
theorem ContentOk.finish {s : State} (hs : ContentOk s) : ContentOk s.finish := by
  have hsquashed : ContentOk { s with slots := s.finish.slots } := by
    refine ⟨hs.mem_wf, hs.store_ok, hs.values_ok, ?_⟩
    dsimp only
    rw [finish_slots]
    split
    · exact ((hs.occupants.put_none .if2).put_none .id).put_none .ex
    · exact hs.occupants
  exact hsquashed.congr (finish_width s) (finish_store s) (finish_regs s) (finish_mem s) rfl

/-- Every step keeps the content, that of a fatal error too (R201). -/
theorem step_contentOk {s t : State} (hs : ContentOk s) (h : step s = .next t) : ContentOk t :=
  step_kept h hs (hs.congr rfl rfl rfl rfl rfl)
    { start := hs.congr rfl rfl rfl rfl rfl
      stage := fun _ _ _ hst _ hr hu h => hu.runStage hst hr h
      fetch := fun _ _ _ hu hd hv => hv ▸ hu.fetch hd }
    fun _ hu => hu.finish

/-! #### Latches, cursor and labels -/

/-- A branch that EX takes has its target in the store (R78 point 4, R170). -/
theorem takenTarget?_isTarget {s : State} (hs : ContentOk s) {target : Int} (h : takenTarget? s = some target) :
    isTarget target = true := by
  cases hf : s.slots.slot3 with
  | none => simp [takenTarget?, hf] at h
  | some f =>
    obtain ⟨-, hok⟩ := hs.occupants .ex f hf
    obtain ⟨i, n, a, b⟩ := f
    cases i with
    | bnez rs tg =>
      simp only [takenTarget?, hf, Option.ite_none_right_eq_some, Option.some.injEq] at h
      obtain ⟨-, rfl⟩ := h
      exact hok
    | _ => simp [takenTarget?, hf] at h

/-- A completed cycle leaves the branch latch clear and the stall bits equal (R129, R130). -/
theorem CycleMoves.latchesOk {s u : State} (h : CycleMoves s u) (hs : s.latchesOk = true) :
    u.finish.latchesOk = true := by
  simp only [State.latchesOk, Bool.and_eq_true, Bool.not_eq_true', beq_iff_eq] at hs
  obtain ⟨⟨htaken, htarget⟩, -⟩ := hs
  have hclear : u.finish.brTarget = 0 := by
    rw [finish_brTarget, h.brTaken, h.brTarget, htaken, htarget]
    cases takenTarget? s <;> simp
  simp [State.latchesOk, hclear]

/-- A completed cycle leaves the cursor at a target, where it was, or one on (R126, R129). -/
theorem CycleMoves.cursorOk {s u : State} (h : CycleMoves s u) (hs : ContentOk s) (hlatch : s.latchesOk = true)
    (hc : s.cursorInStore) : u.finish.cursorOk = true := by
  simp only [State.latchesOk, Bool.and_eq_true, Bool.not_eq_true'] at hlatch
  obtain ⟨⟨htaken, -⟩, -⟩ := hlatch
  obtain ⟨hlow, hhigh⟩ := hc
  have hrange : 0 ≤ u.finish.cursor ∧ u.finish.cursor ≤ Config.storeCap := by
    simp only [Config.storeCap] at *
    rw [finish_cursor, h.brTaken, h.brTarget, h.cursor, htaken]
    cases ht : takenTarget? s with
    | some target =>
      have hok := takenTarget?_isTarget hs ht
      simp only [isTarget, Config.storeCap, Bool.and_eq_true, decide_eq_true_eq] at hok
      simp
      omega
    | none =>
      simp
      split <;> omega
  simpa [State.cursorOk] using hrange

/-- Labels that are left of those in flight and of a new one, the issue number, rise (R27, R58). -/
theorem inOrder_of_sublist {s t : State} (hs : s.inOrder = true)
    (h : (t.labels.Sublist s.labels ∧ s.issue ≤ t.issue) ∨
      (t.labels.Sublist (s.labels ++ [s.issue]) ∧ s.issue < t.issue)) : t.inOrder = true := by
  simp only [State.inOrder, Bool.and_eq_true, decide_eq_true_eq, List.all_eq_true] at hs ⊢
  obtain ⟨hrise, hbelow⟩ := hs
  rcases h with ⟨hsub, hissue⟩ | ⟨hsub, hissue⟩
  · exact ⟨hrise.sublist hsub, fun n hn => (hbelow n (hsub.subset hn)).trans_le hissue⟩
  · have hrise' : (s.labels ++ [s.issue]).Pairwise (· < ·) :=
      List.pairwise_append.2 ⟨hrise, List.pairwise_singleton _ _, fun n hn m hm => by
        rw [List.mem_singleton.1 hm]
        exact hbelow n hn⟩
    refine ⟨hrise'.sublist hsub, fun n hn => ?_⟩
    rcases List.mem_append.1 (hsub.subset hn) with hn | hn
    · exact (hbelow n hn).trans hissue
    · rwa [List.mem_singleton.1 hn]

/-- The labels of a list of slots, slot by slot. -/
theorem labels_cons (v : Option InFlight) (l : List (Option InFlight)) :
    (v :: l).filterMap (fun v => v.map InFlight.label) =
      (v.map InFlight.label).toList ++ l.filterMap fun v => v.map InFlight.label := by
  cases v <;> rfl

/-- A squash takes labels away (R129). -/
theorem finish_labels_sublist (s : State) : s.finish.labels.Sublist s.labels := by
  unfold State.labels
  rw [finish_slots]
  split
  · exact (List.sublist_append_left [s.slots.slot7, s.slots.slot6, s.slots.slot5, s.slots.slot4]
      [s.slots.slot3, s.slots.slot2, s.slots.slot1]).filterMap _
  · exact List.Sublist.refl _

/-- The labels of slots 6 to 1 at the start of a cycle, the instructions that are in flight after it. -/
def State.staying (s : State) : List Nat :=
  [s.slots.slot6, s.slots.slot5, s.slots.slot4, s.slots.slot3, s.slots.slot2, s.slots.slot1].filterMap
    fun v => v.map InFlight.label

/-- Only the instruction at WB leaves the pipeline (R105). -/
theorem staying_sublist (s : State) : s.staying.Sublist s.labels :=
  (List.sublist_cons_self _ _).filterMap _

/-- A fetch is labelled with the issue number (R27, R124). -/
theorem fetchedFlight_label {s : State} {f : InFlight} (h : fetchedFlight s = some f) : f.label = s.issue := by
  unfold fetchedFlight at h
  split at h
  · split at h <;> cases h
    rfl
  · cases h

/-- A stalled cycle keeps the labels that stay (R115, R122). -/
theorem CycleMoves.labels_of_stall {s u : State} (h : CycleMoves s u) (hp : u.pendingStall = true) :
    u.labels = s.staying := by
  simp only [State.labels, State.staying, h.slots, hp, labels_cons]
  simp

/-- A cycle without a stall adds the label of its fetch (R126). -/
theorem CycleMoves.labels_of_no_stall {s u : State} (h : CycleMoves s u) (hp : u.pendingStall = false) :
    u.labels = s.staying ++ ((fetchedFlight s).map InFlight.label).toList := by
  have hresolve : InFlight.label ∘ resolve u = InFlight.label := rfl
  simp only [State.labels, State.staying, h.slots, hp, labels_cons]
  simp [hresolve]

/-- A completed cycle keeps program order (R27, R58). -/
theorem CycleMoves.inOrder {s u : State} (h : CycleMoves s u) (hs : s.inOrder = true) : u.finish.inOrder = true := by
  refine inOrder_of_sublist hs ?_
  rw [finish_issue, h.issue]
  cases hp : u.pendingStall with
  | true =>
    have hsub : u.finish.labels.Sublist s.staying := h.labels_of_stall hp ▸ finish_labels_sublist u
    exact .inl ⟨hsub.trans (staying_sublist s), by simp⟩
  | false =>
    have hsub : u.finish.labels.Sublist (s.staying ++ ((fetchedFlight s).map InFlight.label).toList) :=
      h.labels_of_no_stall hp ▸ finish_labels_sublist u
    have hnew : ((fetchedFlight s).map InFlight.label).toList.Sublist [s.issue] := by
      cases hf : fetchedFlight s with
      | none => exact List.nil_sublist _
      | some f => simp [fetchedFlight_label hf]
    exact .inr ⟨hsub.trans ((staying_sublist s).append hnew), by simp⟩

/-- Settles O41. The content is kept by every stage, so also by a fatal error; latches, cursor and labels are those that
the moves of a completed cycle leave. -/
theorem stepKeepsTheInvariant : Obligations.StepKeepsTheInvariant := by
  intro s t hs h
  obtain ⟨hcontent, hcontrol⟩ := inv_iff.1 hs
  refine inv_iff.2 ⟨step_contentOk hcontent h, ?_⟩
  rcases step_next_cases h with ⟨-, -, rfl⟩ | ⟨hr, -, rfl⟩ | ⟨hr, hc, h⟩
  · exact hcontrol
  · exact .inr (hcontrol.resolve_left (not_fatal_of_running hr))
  · obtain ⟨hlatches, -, horder⟩ := hcontrol.resolve_left (not_fatal_of_running hr)
    rcases runCycle_fatal_or_moves hr h with ⟨hfatal, -⟩ | ⟨u, hu, rfl⟩
    · exact .inl hfatal
    · exact .inr ⟨hu.latchesOk hlatches, hu.cursorOk hcontent hlatches hc, hu.inOrder horder⟩

end Sys2Proof.Machine

/-! ### The data memory: its addresses, and what MEM2 reads and writes there (R50 to R58) -/

namespace Sys2Proof.Machine

/-- Settles O12: a multiple of 8 in 0 to 1023 is 8k for the cell index k that is its eighth. -/
theorem validAddressesAreTheCells : Obligations.ValidAddressesAreTheCells := by
  intro a n
  constructor
  · intro h
    obtain ⟨h8, htop, ha⟩ := cellAddress?_some h
    have hn : n = Config.wordBytes * (n / Config.wordBytes) := (Nat.mul_div_cancel' (Nat.dvd_of_mod_eq_zero h8)).symm
    exact ⟨n / Config.wordBytes, Nat.div_lt_of_lt_mul htop, hn, by rw [← hn, ha]⟩
  · rintro ⟨k, hk, rfl, rfl⟩
    have hcell : ((Config.wordBytes * k : Nat) : Int) % Config.wordBytes = 0 ∧
        0 ≤ ((Config.wordBytes * k : Nat) : Int) ∧ ((Config.wordBytes * k : Nat) : Int) < Config.memBytes := by
      simp only [Config.wordBytes, Config.memBytes, Config.memWords] at *
      omega
    rw [cellAddress?, if_pos hcell, Int.toNat_natCast]

/-- The in-flight instruction is a STORE, its operands read, of v to the cell at byte address a (R156). -/
def StoresTo (W : Nat) (f : InFlight) (a : Nat) (v : Word) : Prop :=
  ∃ rt rs offset base, f.ins = .store rt rs offset ∧ f.rsv = some base ∧ f.rtv = some v ∧
    cellAddress? (effectiveAddress W base offset) = some a

/-- At MEM2 a meaning leaves the data as the own work of the occupant does: the event and the move that follow are none
of the data (R107). -/
theorem exec_mem2_own {i : Instr} {s t : State} {f : InFlight} (hs : s.stage = .mem2) (hf : s.slots.slot5 = some f)
    (h : exec i s = .next t) : f.ins = i ∧ ∃ u, (ownOf i s.width).mem2 f s = .next u ∧ SameData u t := by
  rcases exec_next_occupant (by simp [hs]) h with ⟨-, hempty, -⟩ | ⟨-, g, hg, hi, h⟩
  · simp [hs, hf] at hempty
  · obtain rfl : f = g := by simpa [hs, hf] using hg
    simp only [State.flightWork, hs] at h
    obtain ⟨u, hu, h⟩ := andThen_eq_next.1 h
    refine ⟨hi, u, hu, ?_⟩
    rcases ifRunning_next_cases h with ⟨-, rfl⟩ | ⟨-, h⟩
    · exact ⟨rfl, rfl, rfl, rfl, rfl⟩
    · exact Host.Outcome.next.inj h ▸ ⟨rfl, rfl, rfl, rfl, rfl⟩

/-- A meaning leaves the memory as it is, or it is that of a STORE at MEM2 and writes its cell (R55). -/
theorem exec_mem_cases {i : Instr} {s t : State} (h : exec i s = .next t) :
    t.mem = s.mem ∨ (s.stage = .mem2 ∧
      ∃ f a v, s.slots.slot5 = some f ∧ StoresTo s.width f a v ∧ t.mem = Memory.write s.mem a v) := by
  cases exec_dataEffect h with
  | same hdata | reserve hdata | alu hdata | branch hdata | load hdata => exact .inl hdata.mem
  | @store f _ _ _ _ _ _ hs _ hf =>
    obtain ⟨rfl, u, hu, hdata⟩ := exec_mem2_own hs hf h
    rw [hdata.mem]
    rcases ownMem2_cases hu with ⟨-, -, rfl⟩ | ⟨_, _, _, _, _, _, -, -, -, -, rfl⟩ |
      ⟨rt, rs, off, base, v, a, hi, hbase, hv, ha, rfl⟩ | ⟨_, _, -, -, -, rfl⟩
    · exact .inl rfl
    · exact .inl rfl
    · exact .inr ⟨hs, f, a, v, hf, ⟨rt, rs, off, base, hi, hbase, hv, ha⟩, rfl⟩
    · exact .inl rfl

/-- A STORE of v to a cell leaves, when MEM2 has a next state, the memory with v written to that cell (R156). -/
theorem exec_store_mem {s t : State} {f : InFlight} {a : Nat} {v : Word} (hs : s.stage = .mem2)
    (hf : s.slots.slot5 = some f) (hstore : StoresTo s.width f a v) (h : exec f.ins s = .next t) :
    t.mem = Memory.write s.mem a v := by
  obtain ⟨-, u, hu, hdata⟩ := exec_mem2_own hs hf h
  obtain ⟨rt, rs, off, base, hi, hbase, hv, ha⟩ := hstore
  obtain rfl : s.memWrite a v = u := by simpa [ownOf, storeAtMem2, hi, hbase, hv, ha] using hu
  exact hdata.mem

/-- A LOAD from a cell leaves, when MEM2 has a next state, the cell's value in its destination (R151). -/
theorem exec_load_reg {s t : State} {f : InFlight} {rd rs off : Int} {k : Fin Config.numRegs} {base : Word} {a : Nat}
    (hs : s.stage = .mem2) (hf : s.slots.slot5 = some f) (hk : regIndex? rd = some k) (hbase : f.rsv = some base)
    (ha : cellAddress? (effectiveAddress s.width base off) = some a) (h : exec (.load rd rs off) s = .next t) :
    t.regs[k] = s.memRead a := by
  obtain ⟨-, u, hu, hdata⟩ := exec_mem2_own hs hf h
  obtain rfl : (s.writeReg k (s.memRead a)).setReserved k false = u := by
    simpa [ownOf, loadAtMem2, hk, hbase, ha] using hu
  simp [hdata.regs]

/-- Settles O59: the LOAD reads the cell of the memory that the STORE has written, and that cell reads as written. -/
theorem storeThenLoadReadsTheStoredValue : Obligations.StoreThenLoadReadsTheStoredValue := by
  intro s t u v f g rt rs off rd rs' off' b b' w a k hwf hs _ hf hi hb hw ha hst hmem hu hg _ hb' ha' hk hld
  have hwritten : t.mem = Memory.write s.mem a w :=
    exec_store_mem hs hf ⟨rt, rs, off, b, hi, hb, hw, ha⟩ (hi ▸ hst)
  calc v.regs[k] = Memory.read u.mem a := exec_load_reg hu hg hk hb' ha' hld
    _ = Memory.read (Memory.write s.mem a w) a := by rw [hmem, hwritten]
    _ = w := read_write_same_from hwf a w

/-! ### What a step does to the program and to the memory (R15, R55, R61) -/

/-- The store and the width are those of s (R61, R15). -/
def SameProgram (s u : State) : Prop := u.store = s.store ∧ u.width = s.width

/-- No stage writes the store or the width. -/
theorem sameProgram_kept (s : State) : CycleKeeps s (SameProgram s) where
  start := ⟨rfl, rfl⟩
  stage _ _ _ _ _ _ hu h := by
    obtain ⟨hstore, hwidth⟩ := hu
    obtain ⟨hwidth', hstore', -⟩ := runStage_frame h
    exact ⟨hstore'.trans hstore, hwidth'.trans hwidth⟩
  fetch _ u _ hu _ hv := by
    obtain ⟨hstore, hwidth⟩ := hu
    obtain ⟨-, -, -, -, -, hwidth', hstore', -⟩ := if1Work_frame (u.atStage .if1) (fetchContent _)
    exact hv ▸ ⟨hstore'.trans hstore, hwidth'.trans hwidth⟩

/-- The end of a cycle writes neither the store nor the width. -/
theorem SameProgram.finish {s u : State} (h : SameProgram s u) : SameProgram s u.finish := by
  obtain ⟨hstore, hwidth⟩ := h
  exact ⟨(finish_store u).trans hstore, (finish_width u).trans hwidth⟩

/-- Settles O44: neither a stage nor the end of the cycle writes the store or the width. -/
theorem stepKeepsTheProgram : Obligations.StepKeepsTheProgram := fun s _ h =>
  step_kept (P := SameProgram s) h ⟨rfl, rfl⟩ ⟨rfl, rfl⟩ (sameProgram_kept s) fun _ hu => hu.finish

/-- A stage of a Running engine leaves the memory as it is, or it is MEM2 with a STORE, which writes its cell (R55). -/
theorem runStage_mem_cases {s u : State} {st : Stage} (hr : s.status = .running) (h : s.runStage st = .next u) :
    u.mem = s.mem ∨ (st = .mem2 ∧
      ∃ f a v, s.slots.slot5 = some f ∧ StoresTo s.width f a v ∧ u.mem = Memory.write s.mem a v) :=
  exec_mem_cases (runStage_exec hr st ▸ h)

/-- Every stage keeps the canonical form: a STORE writes the cell that its address check lets through (R51). -/
theorem memory_wf_kept {s : State} (hwf : Memory.wf s.mem = true) : CycleKeeps s fun u => Memory.wf u.mem = true where
  start := hwf
  stage _ _ _ _ _ hr hu h := by
    rcases runStage_mem_cases hr h with hmem | ⟨-, _, _, _, -, ⟨_, _, _, _, -, -, -, ha⟩, hmem⟩
    · rwa [hmem]
    · obtain ⟨h8, htop, -⟩ := cellAddress?_some ha
      rw [hmem]
      exact write_wf hu h8 htop _
  fetch _ _ _ hu _ hv := by rwa [hv, (if1Work_sameData _ _).mem]

/-- Settles O43: every stage keeps the canonical form, and the end of the cycle writes no cell. -/
theorem stepKeepsMemoryCanonical : Obligations.StepKeepsMemoryCanonical := fun _ _ hwf h =>
  step_kept (P := fun u => Memory.wf u.mem = true) h hwf hwf (memory_wf_kept hwf) fun u hu => by rwa [finish_mem]

/-- The cell at b reads as at the start of the cycle, or slot 5 held a STORE to it. -/
def CellAccounted (s : State) (b : Nat) (u : State) : Prop :=
  u.memRead b = s.memRead b ∨ ∃ f v, s.slots.slot5 = some f ∧ StoresTo s.width f b v

/-- A state with the same memory is accounted for alike. -/
theorem CellAccounted.congr {s u v : State} {b : Nat} (h : v.mem = u.mem) (hu : CellAccounted s b u) :
    CellAccounted s b v := by
  unfold CellAccounted State.memRead
  rwa [h]

/-- Every stage accounts for the cell it changes (R55); the width, by which the address is computed, stays (R15). -/
theorem cellAccounted_kept (s : State) (b : Nat) :
    CycleKeeps s fun u => SameProgram s u ∧ CellAccounted s b u where
  start := ⟨⟨rfl, rfl⟩, .inl rfl⟩
  stage st u v hst hocc hr hu h := by
    obtain ⟨hprogram, hcell⟩ := hu
    refine ⟨(sameProgram_kept s).stage st u v hst hocc hr hprogram h, ?_⟩
    rcases runStage_mem_cases hr h with hmem | ⟨rfl, f, a, w, hf, hstores, hmem⟩
    · exact hcell.congr hmem
    · obtain ⟨-, hwidth⟩ := hprogram
      by_cases hb : b = a
      · exact .inr ⟨f, w, hocc.symm.trans hf, by rwa [hb, ← hwidth]⟩
      · have hread : v.memRead b = u.memRead b := by
          simp only [State.memRead, hmem, read_write_other _ _ hb]
        exact hcell.imp_left hread.trans
  fetch i u v hu hd hv := by
    obtain ⟨hprogram, hcell⟩ := hu
    exact ⟨(sameProgram_kept s).fetch i u v hprogram hd hv, hcell.congr (hv ▸ (if1Work_sameData _ _).mem)⟩

/-- Settles O45: the cell is accounted for at every stage, and the end of the cycle writes none. -/
theorem onlyStoresChangeMemory : Obligations.OnlyStoresChangeMemory := by
  intro s t b h hne
  obtain ⟨-, hcell⟩ : SameProgram s t ∧ CellAccounted s b t :=
    step_kept (P := fun u => SameProgram s u ∧ CellAccounted s b u) h ⟨⟨rfl, rfl⟩, .inl rfl⟩
      ⟨⟨rfl, rfl⟩, .inl rfl⟩ (cellAccounted_kept s b) fun u ⟨hprogram, hcell⟩ =>
        ⟨hprogram.finish, hcell.congr (finish_mem u)⟩
  obtain ⟨f, v, hf, rt, rs, off, base, hi, hbase, hv, ha⟩ := hcell.resolve_left hne
  exact ⟨f, rt, rs, off, base, v, hf, hi, hbase, hv, ha⟩

end Sys2Proof.Machine

/-! ### The record form of an instruction: what decoding reads of a record (R70 to R78) -/

namespace Sys2Proof.Machine

/-- The formats with an offset field are those of LOAD, STORE, BRANCH_NE_ZERO (2), ADD_IMMEDIATE (4) and
SUB_IMMEDIATE (6) (R73). -/
def usesOffset (i : Instr) : Bool := isAccess i || i.code == 2 || i.code == 4 || i.code == 6

/-- The record holds the code of the instruction and each field of its format (R72, R73); a field that the format does
not use may hold anything, but rt is present only where it is used (R74, R78 point 2). -/
structure ReadsAs (r : Record) (i : Instr) : Prop where
  code : r.code = i.code
  rd : ∀ n, rdField i = some n → r.rd = n
  rs : ∀ n, rsField i = some n → r.rs = n
  rt : r.rt = rtField i
  offset : usesOffset i = true → r.offset = offsetField i

/-- What a record decodes to, it reads as: each row of the decoder fixes the code and takes the fields of its format. -/
theorem readsAs_of_decode {r : Record} {i : Instr} (h : decode r = .ok i) : ReadsAs r i := by
  unfold decode at h
  split at h <;> cases h
  all_goals
    rename_i hcode hrt
    exact
      { code := BitVec.eq_of_toNat_eq hcode
        rd := by simp [rdField]
        rs := by simp [rsField]
        rt := hrt
        offset := by simp [usesOffset, isAccess, Instr.code, offsetField] }

/-- What a record reads as, it decodes to: code and rt select the row, and the other fields are the operands. -/
theorem decode_of_readsAs {r : Record} {i : Instr} (h : ReadsAs r i) : decode r = .ok i := by
  unfold decode
  rw [h.code, h.rt]
  cases i with
  | load | addi | subi => rw [h.rd _ rfl, h.rs _ rfl, h.offset rfl]; rfl
  | store | bnez => rw [h.rs _ rfl, h.offset rfl]; rfl
  | add | sub => rw [h.rd _ rfl, h.rs _ rfl]; rfl
  | nop => rfl

/-- Decoding is reading the code and the fields of its format, and no other field (R72 to R74). -/
theorem decode_eq_ok_iff {r : Record} {i : Instr} : decode r = .ok i ↔ ReadsAs r i :=
  ⟨readsAs_of_decode, decode_of_readsAs⟩

/-- The record that an instruction is encoded as decodes to it (R72, R73). -/
@[simp] theorem decode_encode (i : Instr) : decode (encode i) = .ok i := by
  cases i <;> rfl

/-- The record of an instruction reads as that instruction. -/
theorem readsAs_encode (i : Instr) : ReadsAs (encode i) i := decode_eq_ok_iff.1 (decode_encode i)

/-- A record that reads as an instruction has exactly the fields of its format (R78 point 2). -/
theorem ReadsAs.shapeOk {r : Record} {i : Instr} (h : ReadsAs r i) : r.shapeOk = true := by
  unfold Record.shapeOk
  rw [h.code, h.rt]
  cases i <;> rfl

/-- The offset of a record is in range exactly when the operand it is read as is (R78 points 3 and 4). -/
theorem ReadsAs.offsetOk_eq {r : Record} {i : Instr} (h : ReadsAs r i) (W : Nat) : r.offsetOk W = i.wf W := by
  unfold Record.offsetOk
  rw [h.code]
  cases i with
  | load | store | bnez | addi | subi => rw [h.offset rfl]; rfl
  | add | sub | nop => rfl

/-- A record is as well formed as the instruction it reads as (R78 points 2 to 4). -/
theorem ReadsAs.wf_eq {r : Record} {i : Instr} (h : ReadsAs r i) (W : Nat) : r.wf W = i.wf W := by
  rw [Record.wf, h.shapeOk, h.offsetOk_eq, Bool.true_and]

/-- Settles O3: a well-formed record decodes by its shape alone, and its range is that of what it decodes to. -/
theorem wellFormedRecordsAreTheDecodable : Obligations.WellFormedRecordsAreTheDecodable := by
  refine ⟨fun W r => ⟨fun hwf => ?_, ?_⟩, fun W i => (readsAs_encode i).wf_eq W⟩
  · obtain ⟨hshape, -⟩ : r.shapeOk = true ∧ r.offsetOk W = true := by simpa [Record.wf] using hwf
    obtain ⟨i, hi⟩ := decode_total hshape
    exact ⟨i, hi, (decode_eq_ok_iff.1 hi).wf_eq W ▸ hwf⟩
  · rintro ⟨i, hi, hwf⟩
    rwa [(decode_eq_ok_iff.1 hi).wf_eq W]

/-- Settles O4: the overwritten record keeps every field that the instruction's format uses. -/
theorem unusedFieldsAreNeverRead : Obligations.UnusedFieldsAreNeverRead := by
  intro r i x y z h
  have hr := decode_eq_ok_iff.1 h
  refine decode_eq_ok_iff.2 ⟨hr.code, fun n hn => ?rd, fun n hn => ?rs, hr.rt, fun hused => ?offset⟩
  case rd => simpa [hn] using hr.rd n hn
  case rs => simpa [hn] using hr.rs n hn
  case offset =>
    have hused' : (isAccess i || r.code == 2 || r.code == 4 || r.code == 6) = true := hr.code ▸ hused
    exact (if_pos hused').trans (hr.offset hused)

/-- Settles O1: each code selects its row of the decoder, which takes the fields as they stand. -/
theorem codesDecodeToTheirRows : Obligations.CodesDecodeToTheirRows :=
  ⟨rfl, rfl, rfl, rfl, rfl, rfl, rfl, rfl⟩

/-- Settles O2, by the rows of the decoder. -/
theorem decodeOfEncodeIsTheInstruction : Obligations.DecodeOfEncodeIsTheInstruction := decode_encode

end Sys2Proof.Machine

/-! ### A completed cycle: data, stall decision and events, and the synchronous reading (R102, R103, R131) -/

namespace Sys2Proof.Machine

/-- A register file after a write: the value written at its index, the old values elsewhere. -/
theorem getElem_set_eq_ite {α : Type} (xs : Vector α Config.numRegs) (j k : Fin Config.numRegs) (x : α) :
    (xs.set j x)[k] = if j = k then x else xs[k] := by
  by_cases hjk : j = k
  · simp [hjk]
  · rw [if_neg hjk, getElem_set_of_ne (Ne.symm hjk)]

/-- A LOAD with a good destination loads to that register and to no other. -/
theorem loadsTo_load {rd rs offset : Int} {j : Fin Config.numRegs} (h : regIndex? rd = some j)
    (k : Fin Config.numRegs) : loadsTo (.load rd rs offset) k = decide (j = k) := by
  by_cases hjk : j = k <;> simp [loadsTo, h, hjk]

/-- Only a LOAD loads to a register. -/
theorem loadsTo_of_not_load {i : Instr} (h : ∀ rd rs offset, i ≠ .load rd rs offset) (k : Fin Config.numRegs) :
    loadsTo i k = false := by
  cases i with
  | load rd rs offset => exact absurd rfl (h rd rs offset)
  | _ => rfl

/-- Only an ALU instruction computes to a register. -/
theorem computesTo_of_not_alu {i : Instr}
    (h : rdField i = none ∨ ∃ rd rs offset, i = .load rd rs offset) (k : Fin Config.numRegs) :
    computesTo i k = false := by
  rcases h with h | ⟨rd, rs, offset, rfl⟩
  · cases i with
    | add | addi | sub | subi => cases h
    | _ => rfl
  · rfl

/-! #### MEM2 -/

/-- Register k when the LOAD at MEM2, if there is one, has written its destination (R151). -/
def loadedReg (s : State) (k : Fin Config.numRegs) : Word :=
  match s.slots.slot5 with
  | some g => if loadsTo g.ins k then s.memRead (accessAddress s g).toNat else s.regs[k]
  | none => s.regs[k]

/-- What MEM2 does to the data when it raises no fatal error (R107). -/
structure Mem2Data (s u : State) : Prop where
  fatal : mem2Fatal? s = none
  regs : ∀ k : Fin Config.numRegs, u.regs[k] = loadedReg s k
  mem : u.mem = memAfter s
  reserved : ∀ k : Fin Config.numRegs,
    u.reserved[k] = (s.reserved[k] && !s.slots.slot5.any fun f => loadsTo f.ins k)
  events : u.events = s.events ++ slotEvents s.slots.slot5 .mem2

/-- An instruction that accesses no memory raises no fatal error at MEM2 (R204). -/
theorem mem2Fatal?_of_not_access {s : State} {f : InFlight} (hf : s.slots.slot5 = some f) (h : isAccess f.ins = false) :
    mem2Fatal? s = none := by
  simp [mem2Fatal?, hf, h]

/-- A LOAD or STORE raises a fatal error at MEM2 exactly when its address is not that of a cell (R204). -/
theorem mem2Fatal?_of_access {s : State} {f : InFlight} (hf : s.slots.slot5 = some f) (h : isAccess f.ins = true) :
    mem2Fatal? s = if (cellAddress? (accessAddress s f)).isNone then
      some ⟨.memIndex, f.label, .address, accessAddress s f⟩ else none := by
  simp [mem2Fatal?, hf, h]

/-- The cell index that passes the check is the address itself (R51). -/
theorem toNat_of_cellAddress? {x : Int} {a : Nat} (h : cellAddress? x = some a) : x.toNat = a := by
  obtain ⟨-, -, rfl⟩ := cellAddress?_some h
  rfl

/-- The address that MEM2 computes from the base read at ID and the displacement (R150). -/
theorem accessAddress_eq (s : State) {f : InFlight} {base offset : Int} (hoffset : offsetField f.ins = offset)
    (hbase : f.rsv = some base) : accessAddress s f = effectiveAddress s.width base offset := by
  simp [accessAddress, hoffset, hbase]

/-- The instructions that are neither LOAD nor STORE access no memory (R55). -/
theorem isAccess_eq_false {i : Instr} (hload : ∀ rd rs off, i ≠ .load rd rs off)
    (hstore : ∀ rt rs off, i ≠ .store rt rs off) : isAccess i = false := by
  cases i with
  | load rd rs off => exact absurd rfl (hload rd rs off)
  | store rt rs off => exact absurd rfl (hstore rt rs off)
  | _ => rfl

/-- Without a STORE at MEM2 the memory stays as it is (R55). -/
theorem memAfter_of_not_store {s : State} {f : InFlight} (hf : s.slots.slot5 = some f)
    (hstore : ∀ rt rs off, f.ins ≠ .store rt rs off) : memAfter s = s.mem := by
  cases hi : f.ins with
  | store rt rs off => exact absurd hi (hstore rt rs off)
  | _ => simp [memAfter, hf, hi]

/-- MEM2 raises the fatal error of a bad address, or does to the data what its occupant is for (R107, R151, R156). -/
theorem ownMem2_data {s t : State} {f : InFlight} (hf : s.slots.slot5 = some f) (hr : s.status = .running)
    (h : (ownOf f.ins s.width).mem2 f s = .next t) :
    (∃ info, mem2Fatal? s = some info ∧ t = s.raiseFatal info) ∨
    (t.status = .running ∧ Mem2Data s ((t.emit f.label .mem2).setSlot .mem3 (some f))) := by
  have hevents : slotEvents s.slots.slot5 .mem2 = [⟨f.label, .mem2⟩] := by rw [hf, slotEvents]
  rcases ownMem2_cases h with ⟨hload, hstore, rfl⟩ | ⟨rd, rs, off, j, base, a, hi, hj, hbase, ha, rfl⟩ |
    ⟨rt, rs, off, base, v, a, hi, hbase, hv, ha, rfl⟩ | ⟨off, base, hi, hbase, ha, rfl⟩
  · exact .inr ⟨hr, mem2Fatal?_of_not_access hf (isAccess_eq_false hload hstore),
      fun k => by simp [loadedReg, hf, loadsTo_of_not_load hload], (memAfter_of_not_store hf hstore).symm,
      fun k => by simp [hf, loadsTo_of_not_load hload], by simp [hevents]⟩
  · have haddr := accessAddress_eq s (offset := off) (by rw [hi]; rfl) hbase
    refine .inr ⟨hr, by simp [mem2Fatal?_of_access hf (by rw [hi]; rfl), haddr, ha], fun k => ?_,
      by simp [memAfter, hf, hi], fun k => ?_, by simp [hevents]⟩
    · simp only [loadedReg, hf, hi, loadsTo_load hj, haddr, toNat_of_cellAddress? ha, decide_eq_true_eq]
      exact getElem_set_eq_ite _ _ _ _
    · rw [hf, Option.any_some, hi, loadsTo_load hj]
      refine (getElem_set_eq_ite s.reserved j k false).trans ?_
      by_cases hjk : j = k <;> simp [hjk]
  · have haddr := accessAddress_eq s (offset := off) (by rw [hi]; rfl) hbase
    exact .inr ⟨hr, by simp [mem2Fatal?_of_access hf (by rw [hi]; rfl), haddr, ha],
      fun k => by simp [loadedReg, hf, hi, loadsTo],
      by simp [memAfter, hf, hi, haddr, toNat_of_cellAddress? ha, hv], fun k => by simp [hf, hi, loadsTo],
      by simp [hevents]⟩
  · obtain ⟨haccess, hoffset⟩ : isAccess f.ins = true ∧ offsetField f.ins = off := by
      rcases hi with ⟨_, _, hi⟩ | ⟨_, _, hi⟩ <;> rw [hi] <;> exact ⟨rfl, rfl⟩
    exact .inl ⟨_, by rw [mem2Fatal?_of_access hf haccess, accessAddress_eq s hoffset hbase, ha]; rfl, rfl⟩

/-- MEM2 raises the fatal error of a bad address and does nothing else, or the run goes on (R107, R201). -/
theorem runStage_mem2_data {s u : State} (hr : s.status = .running) (h : s.runStage .mem2 = .next u) :
    (∃ info, mem2Fatal? s = some info ∧ u = (s.atStage .mem2).raiseFatal info) ∨
    (u.status = .running ∧ Mem2Data s u) := by
  rcases runStage_mem2 hr h with ⟨hf, rfl⟩ | ⟨f, v, hf, -, hv, hu⟩
  · exact .inr ⟨hr, by simp [mem2Fatal?, hf], fun k => by simp [loadedReg, hf], by simp [memAfter, hf],
      fun k => by simp [hf], by simp [slotEvents, hf]⟩
  · rcases ownMem2_data (s := s.atStage .mem2) hf hr hv with ⟨info, hinfo, rfl⟩ | ⟨hrun, hdata⟩
    · exact .inl ⟨info, hinfo, (hu.resolve_right fun e => by simp at e).2⟩
    · obtain rfl := (hu.resolve_left fun e => e.1 hrun).2
      exact .inr ⟨hrun, hdata.fatal, hdata.regs, hdata.mem, hdata.reserved, hdata.events⟩

/-! #### EX and ID -/

/-- Register k when the ALU instruction at EX, if there is one, has written over `old` (R181, R189). -/
def computedReg (s : State) (k : Fin Config.numRegs) (old : Word) : Word :=
  match s.slots.slot3 with
  | some f => if computesTo f.ins k then aluResult s f else old
  | none => old

/-- The register after the cycle is written at MEM2 first and at EX last (R189). -/
theorem regAfter_eq (s : State) (k : Fin Config.numRegs) : regAfter s k = computedReg s k (loadedReg s k) := by
  unfold regAfter computedReg loadedReg
  cases s.slots.slot3 <;> cases s.slots.slot5 <;> rfl

/-- An ALU result depends on the width and the operands of the instruction only (R181). -/
theorem aluResult_congr {s u : State} (h : u.width = s.width) : aluResult u = aluResult s := by
  funext f
  simp only [aluResult, h]

/-- What EX does to the data, but for the branch latch (R109). -/
structure ExData (s u : State) : Prop where
  regs : ∀ k : Fin Config.numRegs, u.regs[k] = computedReg s k s.regs[k]
  mem : u.mem = s.mem
  reserved : u.reserved = s.reserved
  events : u.events = s.events ++ slotEvents s.slots.slot3 .ex

/-- The own work at EX writes the result of an ALU instruction to its destination, and no other register (R181). -/
theorem ownEx_regs {f : InFlight} {s t : State} (h : (ownOf f.ins s.width).ex f s = .next t)
    (k : Fin Config.numRegs) : t.regs[k] = if computesTo f.ins k then aluResult s f else s.regs[k] := by
  rcases ownEx_cases h with ⟨hno, -, rfl⟩ | ⟨rs, tg, v, hi, -, rfl⟩ | ⟨op, j, a, b, hop, ha, hb, rfl⟩
  · simp [computesTo_of_not_alu hno]
  · rw [computesTo_of_not_alu (.inl (by rw [hi]; rfl))]
    split <;> rfl
  · refine (getElem_set_eq_ite s.regs j k (op a b)).trans ?_
    rcases hop with ⟨⟨_, _, _, hi, hj⟩ | ⟨_, _, _, hi, hj⟩, rfl⟩ | ⟨⟨_, _, _, hi, hj⟩ | ⟨_, _, _, hi, hj⟩, rfl⟩ <;>
      simp [computesTo, aluResult, hi, hj, ha, hb]

/-- EX does this to the data. -/
theorem runStage_ex_data {s u : State} (hr : s.status = .running) (h : s.runStage .ex = .next u) : ExData s u := by
  rcases runStage_ex hr h with ⟨hf, rfl⟩ | ⟨f, v, hf, -, hv, hu⟩
  · exact ⟨fun k => by simp [computedReg, hf], rfl, rfl, by simp [slotEvents, hf]⟩
  · have hregs := ownEx_regs (s := s.atStage .ex) hv
    obtain ⟨_, _, _, rfl⟩ := ownEx_shape hv
    obtain rfl := (hu.resolve_left fun e => e.1 hr).2
    exact ⟨fun k => by simp only [computedReg, hf]; exact hregs k, rfl, rfl, by simp [slotEvents, hf]⟩

/-- What ID does when it raises no fatal error: the LOAD there reserves its destination before the hazard test (R113 to
R120). -/
structure IdData (s u : State) : Prop where
  fatal : idFatal? s = none
  regs : u.regs = s.regs
  mem : u.mem = s.mem
  reserved : ∀ k : Fin Config.numRegs,
    u.reserved[k] = (s.slots.slot2.any (fun g => loadsTo g.ins k) || s.reserved[k])
  pending : u.pendingStall = s.slots.slot2.any fun g => hazard g.ins u
  events : u.events = s.events ++ slotEvents s.slots.slot2 (s.stageTag .id)

@[simp] theorem atStage_stageTag (s : State) (st : Stage) (own : Tag) : (s.atStage st).stageTag own = s.stageTag own :=
  rfl

/-- The hazard test reads the reservations only (R115). -/
theorem hazard_congr {s u : State} (h : u.reserved = s.reserved) (i : Instr) : hazard i u = hazard i s := by
  have hbit : u.isReserved = s.isReserved := funext fun r => by simp only [State.isReserved, h]
  simp only [hazard, hbit]

/-- Entering ID reserves the destination of a LOAD whose register fields are good, and nothing else (R113). -/
theorem ownEnter_reserved {i : Instr} (hgood : firstBadField i = none) (W : Nat) (s : State) (k : Fin Config.numRegs) :
    ((ownOf i W).enter s).reserved[k] = (loadsTo i k || s.reserved[k]) := by
  rcases ownEnter_cases i W s with ⟨rd, rs, off, rfl, h⟩ | ⟨hno, h⟩ <;> rw [h]
  · obtain ⟨j, hj⟩ := rdField_ok hgood (r := rd) rfl
    rw [loadsTo_load hj]
    by_cases hjk : j = k
    · simpa [hjk] using reserve_isReserved s rd k (hjk ▸ hj)
    · simpa [hjk] using reserve_reserved_other s rd k (by simpa [hj] using hjk)
  · simp [loadsTo_of_not_load hno]

/-- ID raises the fatal error of a bad register field and does nothing else, or the run goes on (R112, R201). -/
theorem runStage_id_data {s u : State} (hr : s.status = .running) (h : s.runStage .id = .next u) :
    (∃ info, idFatal? s = some info ∧ u = (s.atStage .id).raiseFatal info) ∨ (u.status = .running ∧ IdData s u) := by
  rcases runStage_id hr h with ⟨hf, rfl⟩ | ⟨f, hf, -, hu⟩
  · exact .inr ⟨hr, by simp [idFatal?, hf], rfl, rfl, fun k => by simp [State.idEmpty, hf],
      by simp [State.idEmpty, hf], by simp [State.idEmpty, slotEvents, hf]⟩
  · have hbits := fun hgood => ownEnter_reserved hgood s.width (s.atStage .id) (i := f.ins)
    obtain ⟨bits, henter⟩ := ownEnter_shape f.ins s.width (s.atStage .id)
    rcases idWork_cases (s.atStage .id) (ownOf f.ins s.width).enter f with
      ⟨_, _, hbad, hw⟩ | ⟨hgood, hhaz, hw⟩ | ⟨hgood, hhaz, hw⟩ <;> rw [hw] at hu <;> subst hu
    · exact .inl ⟨_, by simp [idFatal?, hf, hbad], rfl⟩
    all_goals
      refine .inr ⟨by simp [henter, hr], by simp [idFatal?, hf, hgood], by simp [henter], by simp [henter],
        fun k => by simpa [hf] using hbits hgood k, ?_, ?_⟩
      · rw [hf]
        exact hhaz.symm
      · simp [henter, slotEvents, hf]

/-! #### The whole cycle -/

/-- IF1 tells of its fetch (R104, R124). -/
theorem if1Work_events (s : State) (c : Option Instr) :
    (s.if1Work c).events =
      s.events ++ slotEvents (c.map fun i => InFlight.mk i s.issue none none) (s.stageTag .if1) := by
  cases hp : s.pendingStall <;> cases c <;> simp [State.if1Work, slotEvents, hp]

/-- The events of a cycle, slot by slot (R104). -/
theorem cycleEvents_eq (s : State) :
    cycleEvents s = slotEvents s.slots.slot7 .wb ++ slotEvents s.slots.slot6 .mem3 ++ slotEvents s.slots.slot5 .mem2 ++
      slotEvents s.slots.slot4 .mem1 ++ slotEvents s.slots.slot3 .ex ++ slotEvents s.slots.slot2 (s.stageTag .id) ++
      slotEvents s.slots.slot1 (s.stageTag .if2) ++ slotEvents (fetchedFlight s) (s.stageTag .if1) := by
  have htell (v : Option InFlight) (g : Tag) : (v.toList.map fun f => (⟨f.label, g⟩ : Event)) = slotEvents v g := by
    cases v <;> rfl
  simp only [cycleEvents, htell]
  rfl

/-- The stall decision is the hazard test on the reservations after the cycle (R103, R115). -/
theorem stallsAtId_eq {s u : State} (h : ∀ k : Fin Config.numRegs, u.reserved[k] = reservedAfter s k) :
    stallsAtId s = s.slots.slot2.any fun g => hazard g.ins u := by
  have hbit (r : Int) : (match regIndex? r with | some k => reservedAfter s k | none => false) = u.isReserved r := by
    unfold State.isReserved
    cases regIndex? r with
    | some k => exact (h k).symm
    | none => rfl
  simp only [stallsAtId, hazard]
  exact congrArg (s.slots.slot2.any ·) (funext fun g => congrArg ((sources g.ins).any ·) (funext hbit))

/-- What the stages of a whole cycle that started at s have done to data, stall decision and events, each part as the
synchronous reading computes it from s (R102). -/
structure CycleData (s u : State) : Prop where
  fatal : cycleFatal? s = none
  width : u.width = s.width
  store : u.store = s.store
  regs : ∀ k : Fin Config.numRegs, u.regs[k] = regAfter s k
  mem : u.mem = memAfter s
  reserved : ∀ k : Fin Config.numRegs, u.reserved[k] = reservedAfter s k
  pending : u.pendingStall = stallsAtId s
  events : u.events = cycleEvents s
  stage : u.stage = .if1

/-- What MEM2 did in a cycle that it did not stop. -/
theorem runStage_mem2_running {s u : State} (hr : s.status = .running) (h : s.runStage .mem2 = .next u)
    (hu : u.status = .running) : Mem2Data s u := by
  rcases runStage_mem2_data hr h with ⟨info, -, rfl⟩ | ⟨-, hdata⟩
  · cases hu
  · exact hdata

/-- What ID did in a cycle that it did not stop. -/
theorem runStage_id_running {s u : State} (hr : s.status = .running) (h : s.runStage .id = .next u)
    (hu : u.status = .running) : IdData s u := by
  rcases runStage_id_data hr h with ⟨info, -, rfl⟩ | ⟨-, hdata⟩
  · cases hu
  · exact hdata

/-- The fatal error at ID depends on slot 2 only (R202). -/
theorem idFatal?_congr {s u : State} (h : u.slots.slot2 = s.slots.slot2) : idFatal? u = idFatal? s := by
  simp only [idFatal?, h]

/-- What is computed at EX depends on slot 3 and the width only (R181). -/
theorem computedReg_congr {s u : State} (hslot : u.slots.slot3 = s.slots.slot3) (hwidth : u.width = s.width) :
    computedReg u = computedReg s := by
  funext k old
  simp only [computedReg, hslot, aluResult_congr hwidth]

section chain
variable {s t wb mem3 mem2 mem1 ex id if2 if1 : State}

/-- When MEM2 starts, WB and MEM3 have done no more than tell of their slots and move slot 6 on (R105, R106). -/
theorem CycleChain.mem3_start (h : CycleChain s t wb mem3 mem2 mem1 ex id if2 if1) :
    mem3 = { s with
      stage := .mem3, events := slotEvents s.slots.slot7 .wb ++ slotEvents s.slots.slot6 .mem3
      slots := { s.slots with slot7 := s.slots.slot6 } } := by
  rw [h.mem3_eq, h.wb_eq]

/-- A stage finds in its slot what was there at the start of the cycle (R102). -/
theorem CycleChain.slots_start (h : CycleChain s t wb mem3 mem2 mem1 ex id if2 if1) :
    mem2.slots.slot4 = s.slots.slot4 ∧ mem1.slots.slot3 = s.slots.slot3 ∧ ex.slots.slot2 = s.slots.slot2 ∧
    id.slots.slot1 = s.slots.slot1 := by
  obtain ⟨-, -, slots2⟩ := runStage_frame h.mem2_next
  obtain ⟨-, -, slotsEx⟩ := runStage_frame h.ex_next
  obtain ⟨-, -, slotsId⟩ := runStage_frame h.id_next
  have start2 (st : Stage) (hmem2 : writesSlot .mem2 st = false) (hwb : st ≠ .wb) :
      mem2.slots.get st = s.slots.get st := by
    rw [slots2 st hmem2, h.mem3_start]
    exact slots_get_put_other (st := .wb) s.slots s.slots.slot6 hwb
  have start1 (st : Stage) (hmem2 : writesSlot .mem2 st = false) (hwb : st ≠ .wb) (hmem1 : st ≠ .mem2) :
      mem1.slots.get st = s.slots.get st := by
    rw [← start2 st hmem2 hwb, h.mem1_eq]
    exact slots_get_put_other (st := .mem2) mem2.slots mem2.slots.slot4 hmem1
  exact ⟨start2 .mem1 rfl (by decide), start1 .ex rfl (by decide) (by decide),
    (slotsEx .id rfl).trans (start1 .id rfl (by decide) (by decide)),
    (slotsId .if2 rfl).trans ((slotsEx .if2 rfl).trans (start1 .if2 rfl (by decide) (by decide)))⟩

/-- What MEM2, EX and ID did in a whole cycle. -/
theorem CycleChain.stageData (hr : s.status = .running) (h : CycleChain s t wb mem3 mem2 mem1 ex id if2 if1) :
    Mem2Data mem3 mem2 ∧ ExData mem1 ex ∧ IdData ex id := by
  have rmem3 : mem3.status = .running := by rw [h.mem3_start]; exact hr
  have rmem1 : mem1.status = .running := by rw [h.mem1_eq]; exact h.mem2_running
  exact ⟨runStage_mem2_running rmem3 h.mem2_next h.mem2_running, runStage_ex_data rmem1 h.ex_next,
    runStage_id_running h.ex_running h.id_next h.id_running⟩

/-- After ID a cycle writes no data, no reservation and no stall decision (R122 to R127). -/
theorem CycleChain.after_id (h : CycleChain s t wb mem3 mem2 mem1 ex id if2 if1) :
    if1.regs = id.regs ∧ if1.mem = id.mem ∧ if1.reserved = id.reserved ∧ if1.pendingStall = id.pendingStall ∧
    if1.width = if2.width ∧ if1.store = if2.store ∧ if1.stage = .if1 := by
  obtain ⟨i, -, hif1⟩ := h.if1_next
  obtain ⟨hregs, hmem, hreserved, -, -, hwidth, hstore, -, -, -, hstage⟩ :=
    if1Work_frame (if2.atStage .if1) (fetchContent i)
  obtain ⟨hpending, -⟩ := if1Work_moves (if2.atStage .if1) (fetchContent i)
  rw [← hif1] at hregs hmem hreserved hwidth hstore hstage hpending
  refine ⟨hregs.trans ?_, hmem.trans ?_, hreserved.trans ?_, hpending.trans ?_, hwidth, hstore, hstage⟩ <;>
    rw [h.if2_eq] <;> rfl

/-- A cycle emits its events in the order of its stages (R104). -/
theorem CycleChain.events (hr : s.status = .running) (h : CycleChain s t wb mem3 mem2 mem1 ex id if2 if1) :
    if1.events = cycleEvents s := by
  obtain ⟨slot4, slot3, slot2, slot1⟩ := h.slots_start
  obtain ⟨dmem2, dex, did⟩ := h.stageData hr
  have hfront := h.sameFront
  have tagIf2 (own : Tag) : if2.stageTag own = s.stageTag own := by simp only [State.stageTag, hfront.currentStall]
  have tagId (own : Tag) : id.stageTag own = s.stageTag own := by rw [← tagIf2, h.if2_eq]; rfl
  have tagEx (own : Tag) : ex.stageTag own = s.stageTag own := by
    rw [← tagId]
    simp only [State.stageTag, (runStage_sameFront (by decide) h.id_next).currentStall]
  have hfetched : fetchedFlight if2 = fetchedFlight s := by
    simp only [fetchedFlight, hfront.store, hfront.cursor, hfront.issue]
  obtain ⟨i, hd, hif1⟩ := h.if1_next
  have back : mem1.events = slotEvents s.slots.slot7 .wb ++ slotEvents s.slots.slot6 .mem3 ++
      slotEvents s.slots.slot5 .mem2 ++ slotEvents s.slots.slot4 .mem1 := by
    rw [h.mem1_eq, dmem2.events, slot4, h.mem3_start]
  have front : if2.events = mem1.events ++ slotEvents s.slots.slot3 .ex ++ slotEvents s.slots.slot2 (s.stageTag .id) ++
      slotEvents s.slots.slot1 (s.stageTag .if2) := by
    rw [h.if2_eq, slot1, did.events, slot2, dex.events, slot3, tagId, tagEx]
  rw [cycleEvents_eq, ← back, ← front, hif1, if1Work_events, atStage_events, atStage_issue, atStage_stageTag,
    fetchContent_eq_fetchedFlight hd, hfetched, tagIf2]

/-- The stages of a whole cycle do this to the data (R103): each reads what the stages before it have written. -/
theorem CycleChain.data (hr : s.status = .running) (h : CycleChain s t wb mem3 mem2 mem1 ex id if2 if1) :
    CycleData s if1 := by
  have start3 := h.mem3_start
  obtain ⟨-, slot3, slot2, -⟩ := h.slots_start
  obtain ⟨dmem2, dex, did⟩ := h.stageData hr
  obtain ⟨hregs, hmem, hreserved, hpending, hwidth, hstore, hstage⟩ := h.after_id
  have width1 : mem1.width = s.width := by
    rw [h.mem1_eq]
    exact (runStage_frame h.mem2_next).1.trans (by rw [start3])
  have fatal : cycleFatal? s = none := by
    have hmem2 : mem2Fatal? s = none := by rw [← dmem2.fatal, start3]; rfl
    rw [cycleFatal?, hmem2, ← idFatal?_congr slot2]
    exact did.fatal
  have regs (k : Fin Config.numRegs) : if1.regs[k] = regAfter s k := by
    have hmem2 : mem1.regs[k] = loadedReg s k := by rw [h.mem1_eq, dmem2.regs, start3]; rfl
    rw [regAfter_eq, ← hmem2, ← computedReg_congr slot3 width1, ← dex.regs, hregs, did.regs]
  have mem : if1.mem = memAfter s := by
    rw [hmem, did.mem, dex.mem, h.mem1_eq, dmem2.mem, start3]
    rfl
  have reserved (k : Fin Config.numRegs) : if1.reserved[k] = reservedAfter s k := by
    have hmem2 : ex.reserved[k] = (s.reserved[k] && !s.slots.slot5.any fun f => loadsTo f.ins k) := by
      rw [dex.reserved, h.mem1_eq, dmem2.reserved, start3]
    rw [reservedAfter, ← hmem2, ← slot2, ← did.reserved, hreserved]
  have pending : if1.pendingStall = stallsAtId s := by
    have hhazard : (fun g : InFlight => hazard g.ins id) = fun g => hazard g.ins if1 :=
      funext fun g => (hazard_congr hreserved g.ins).symm
    rw [stallsAtId_eq reserved, hpending, did.pending, slot2, hhazard]
  exact ⟨fatal, hwidth.trans h.sameFront.width, hstore.trans h.sameFront.store, regs, mem, reserved, pending,
    h.events hr, hstage⟩

end chain

/-- A cycle of a Running engine ends in the fatal error that the synchronous reading finds, or it comes to its end
(R128, R201). -/
theorem runCycle_fatal_or_data {s t : State} (hr : s.status = .running) (h : s.runCycle = .next t) :
    (∃ info, cycleFatal? s = some info ∧ t.status = .fatal info) ∨
    ∃ u, CycleMoves s u ∧ CycleData s u ∧ t = u.finish := by
  rcases runCycle_next hr h with ⟨wb, mem3, rfl, rfl, ⟨hmem2, hstop⟩ | ⟨mem2, mem1, hmem2, rmem2, rfl, hstop⟩⟩ |
    ⟨_, _, _, _, _, _, _, if1, hchain⟩
  · rcases runStage_mem2_data (by exact hr) hmem2 with ⟨info, hinfo, rfl⟩ | ⟨hrun, -⟩
    · have hinfo' : mem2Fatal? s = some info := hinfo
      exact .inl ⟨info, by rw [cycleFatal?, hinfo'], rfl⟩
    · exact absurd hrun hstop
  · rcases hstop with ⟨hex, hstop⟩ | ⟨ex, hex, rex, hid, hstop⟩
    · exact absurd (runStage_ex_moves (by exact rmem2) hex).1 hstop
    · have hfatal2 : mem2Fatal? s = none := (runStage_mem2_running (by exact hr) hmem2 rmem2).fatal
      rcases runStage_id_data rex hid with ⟨info, hinfo, rfl⟩ | ⟨hrun, -⟩
      · refine .inl ⟨info, ?_, rfl⟩
        have slot2 : ex.slots.slot2 = s.slots.slot2 :=
          ((runStage_frame hex).2.2 .id rfl).trans ((runStage_frame hmem2).2.2 .id rfl)
        rw [cycleFatal?, hfatal2, ← hinfo, idFatal?_congr slot2]
      · exact absurd hrun hstop
  · exact .inr ⟨if1, hchain.moves hr, hchain.data hr, hchain.end_eq⟩

/-- The end of a cycle makes the run Done(Drained) exactly when it leaves all slots EMPTY (R132). -/
theorem finish_status (s : State) :
    s.finish.status = if s.finish.slots = Slots.empty then .done .drained else s.status := by
  simp only [State.finish, State.drainTest]
  split <;> simp_all

@[simp] theorem finish_stage (s : State) : s.finish.stage = s.stage := by simp [State.finish]

/-- Two states with the same fields are the same state. -/
theorem state_ext {s t : State} (width : s.width = t.width) (store : s.store = t.store) (regs : s.regs = t.regs)
    (mem : s.mem = t.mem) (cursor : s.cursor = t.cursor) (issue : s.issue = t.issue) (slots : s.slots = t.slots)
    (reserved : s.reserved = t.reserved) (currentStall : s.currentStall = t.currentStall)
    (pendingStall : s.pendingStall = t.pendingStall) (brTaken : s.brTaken = t.brTaken)
    (brTarget : s.brTarget = t.brTarget) (cycle : s.cycle = t.cycle) (status : s.status = t.status)
    (events : s.events = t.events) (trace : s.trace = t.trace) (stage : s.stage = t.stage) : s = t := by
  cases s; cases t; congr

/-- Registers that agree one by one with a function are those of the function. -/
theorem eq_ofFn {α : Type} {xs : Vector α Config.numRegs} {f : Fin Config.numRegs → α}
    (h : ∀ k : Fin Config.numRegs, xs[k] = f k) : xs = Vector.ofFn f :=
  Vector.ext fun i hi => by simpa using h ⟨i, hi⟩

/-- The slots that a completed cycle leaves are those of the synchronous reading (R30, R129). -/
theorem finish_slots_eq_slotsAfter {s u : State} (hm : CycleMoves s u) (hd : CycleData s u)
    (hlatch : s.brTaken = false) : u.finish.slots = slotsAfter s := by
  have hresolve : resolve u = resolve { s with regs := regsAfter s } := resolve_congr (eq_ofFn hd.regs)
  rw [finish_slots, hm.slots, hm.brTaken, hlatch, hd.pending, hresolve]
  cases htaken : takenTarget? s <;> cases hstall : stallsAtId s <;> simp [slotsAfter, htaken, hstall]

/-- A completed cycle with a clear branch latch is the synchronous one: the stages compute its parts, and the end-of-cycle
steps squash, latch the stall decision, record and test for the end (R102, R128). -/
theorem finish_eq_syncCycle {s u : State} (hm : CycleMoves s u) (hd : CycleData s u) (htaken : s.brTaken = false)
    (htarget : s.brTarget = 0) : u.finish = syncCycle s := by
  have hslots := finish_slots_eq_slotsAfter hm hd htaken
  apply state_ext
  case slots => exact hslots
  case status => rw [finish_status, hslots, hm.running]; rfl
  case regs => exact (finish_regs u).trans (eq_ofFn hd.regs)
  case reserved => exact (finish_reserved u).trans (eq_ofFn hd.reserved)
  case cursor =>
    rw [finish_cursor, hm.brTaken, hm.brTarget, hm.cursor, htaken, hd.pending]
    cases h : takenTarget? s <;> simp [syncCycle, h]
  case brTarget =>
    rw [finish_brTarget, hm.brTaken, hm.brTarget, htaken, htarget]
    cases h : takenTarget? s <;> simp [syncCycle, htarget]
  all_goals
    simp [syncCycle, hd.width, hd.store, hd.mem, hm.issue, hd.pending, htaken, hm.cycle, hd.events, hm.trace, hd.stage]

/-- Between the cycles of a Running engine the branch latch is clear (R33, R129). -/
theorem latch_clear_of_inv {s : State} (hinv : s.inv = true) (hr : s.status = .running) :
    s.brTaken = false ∧ s.brTarget = 0 := by
  obtain ⟨-, hcontrol⟩ := inv_iff.1 hinv
  obtain ⟨hlatches, -⟩ := hcontrol.resolve_left (not_fatal_of_running hr)
  simp only [State.latchesOk, Bool.and_eq_true, Bool.not_eq_true', beq_iff_eq] at hlatches
  exact hlatches.1

/-- Settles O38. The step has a next state, no fatal error stops its cycle, and the chain of stages it then is computes
every part of the synchronous cycle. -/
theorem cycleIsSynchronous : Obligations.CycleIsSynchronous := by
  intro s hinv hr hcursor hfatal
  obtain ⟨t, ht⟩ := stepAlwaysHasANextState s hinv (Bool.not_eq_true _ ▸ not_fatal_of_running hr)
  obtain ⟨htaken, htarget⟩ := latch_clear_of_inv hinv hr
  rcases runCycle_fatal_or_data hr (step_running hr hcursor ▸ ht) with ⟨info, hinfo, -⟩ | ⟨u, hm, hd, rfl⟩
  · simp [hfatal] at hinfo
  · rw [ht, finish_eq_syncCycle hm hd htaken htarget]

end Sys2Proof.Machine

/-! ### One stage at a time: what `exec` answers at IF1, IF2, ID and the stages that pass an instruction on (R105 to
R127) -/

namespace Sys2Proof.Machine

/-- At a stage after IF1 the occupant of its slot does the stage's work. -/
theorem exec_occupant_at {s : State} {st : Stage} {f : InFlight} (hs : s.stage = st) (hst : st ≠ .if1)
    (hf : s.slots.get st = some f) (hn : f.ins ≠ .nop) : exec f.ins s = s.flightWork (ownOf f.ins s.width) f := by
  subst hs
  exact exec_occupant hst hf hn

/-- At a stage after IF1 the sentinel does the work of the EMPTY slot. -/
theorem exec_empty_at {s : State} {st : Stage} (hs : s.stage = st) (hst : st ≠ .if1) (hf : s.slots.get st = none) :
    exec .nop s = .next s.emptyWork := by
  subst hs
  exact exec_empty hst hf

/-- Settles O21: the fetch is `if1Work`, whose one decision is that of the stall. -/
theorem fetchLabelsAndAdvances : Obligations.FetchLabelsAndAdvances := by
  intro s i hs hi
  rw [exec_if1 hi hs]
  cases hp : s.pendingStall <;> simp [State.if1Work, State.setSlot, State.emit, State.stageTag, hp]

/-- Settles O22: the stages WB, MEM3 and MEM1 have no work of an instruction's own. -/
theorem passThroughStages : Obligations.PassThroughStages := by
  refine ⟨fun s f hn => ⟨fun hs hf => ?wb, fun hs hf => ?mem3, fun hs hf => ?mem1⟩,
    fun s => ⟨fun hs hf => ?emptyWb, fun hs hf => ?emptyMem3, fun hs hf => ?emptyMem1⟩⟩
  case wb | mem3 | mem1 =>
    have hexec := exec_occupant_at hs (by decide) hf hn
    simp only [State.flightWork, hs] at hexec
    exact hexec
  case emptyWb | emptyMem3 | emptyMem1 =>
    have hexec := exec_empty_at hs (by decide) hf
    simp only [State.emptyWork, hs] at hexec
    exact hexec

/-- Settles O23: an instruction and an EMPTY slot have the same work at IF2. -/
theorem if2MovesUnlessStalled : Obligations.If2MovesUnlessStalled := by
  rintro s i hs rfl hn
  have hexec : exec (occupant s.slots.slot1) s = .next s.if2Work := by
    cases hf : s.slots.slot1 with
    | none => rw [occupant, exec_empty_at hs (by decide) hf]; simp only [State.emptyWork, hs]
    | some f => rw [occupant, exec_occupant_at hs (by decide) hf (hn f hf)]; simp only [State.flightWork, hs]
  rw [hexec]
  by_cases hp : s.pendingStall = true
  · simp only [State.if2Work, if_pos hp]
    cases s.slots.slot1 <;> simp [State.emit, State.stageTag]
  · simp only [State.if2Work, if_neg hp]
    cases hf : s.slots.slot1 <;> simp [State.setSlot, State.emit, State.stageTag, hf]

/-- Settles O27: the work of ID on an EMPTY slot. -/
theorem emptyIdClearsTheStall : Obligations.EmptyIdClearsTheStall := by
  intro s hs hf
  have hexec := exec_empty_at hs (by decide) hf
  simp only [State.emptyWork, hs] at hexec
  exact hexec

/-- Settles O34: IF1 fetches anything, and a later stage has a next state for an occupant that is ready for it. -/
theorem everyOccupantHasANextState : Obligations.EveryOccupantHasANextState := by
  refine ⟨fun s f hn hf hready => ?_, fun s hf => ?_⟩ <;> by_cases hs : s.stage = .if1
  · exact exec_if1_total f.ins hs
  · obtain ⟨t, ht⟩ := flightWork_total (W := s.width) (s := s) (f := f)
      ⟨hn, fun hlate => hready.resolve_right fun hearly => by rcases hlate with h | h <;> simp [h] at hearly⟩
    exact ⟨t, (exec_occupant hs hf hn).trans ht⟩
  · exact exec_if1_total .nop hs
  · exact ⟨_, exec_empty hs hf⟩

/-! #### The decision of ID -/

/-- An index is reserved exactly when it is the number of a reserved register (R31). -/
theorem isReserved_iff {s : State} {i : Int} : s.isReserved i = true ↔ registerReserved s i := by
  simp only [isReserved_eq_true, regIndex?_eq_some, registerReserved]

/-- The hazard of an instruction whose only source is rs (R114, R115). -/
theorem hazard_one_source {i : Instr} {rs : Int} (h : sources i = [rs]) (u : State) :
    hazard i u = true ↔ registerReserved u rs := by
  simp [hazard, h, isReserved_iff]

/-- The hazard of an instruction with the two sources rs and rt (R114, R115). -/
theorem hazard_two_sources {i : Instr} {rs rt : Int} (h : sources i = [rs, rt]) (u : State) :
    hazard i u = true ↔ registerReserved u rs ∨ registerReserved u rt := by
  simp [hazard, h, isReserved_iff]

/-- At ID an instruction with good register fields stalls or resolves, as the hazard test after entering says (R110,
R117 to R120). -/
theorem exec_id {s : State} {f : InFlight} (hs : s.stage = .id) (hf : s.slots.slot2 = some f) (hn : f.ins ≠ .nop)
    (hgood : firstBadField f.ins = none) {u : State} (hu : u = (ownOf f.ins s.width).enter s) :
    exec f.ins s = .next
      (if hazard f.ins u then ((u.emit f.label (s.stageTag .id)).setSlot .ex none).setPending true
      else ((u.emit f.label (s.stageTag .id)).setSlot .ex (some (resolve s f))).setPending false) := by
  have hregs : u.regs = s.regs := by
    obtain ⟨_, henter⟩ := ownEnter_shape f.ins s.width s
    rw [hu, henter]
  have hresolve : resolve (u.emit f.label (s.stageTag .id)) f = resolve s f := congrFun (resolve_congr hregs) f
  rw [exec_occupant_at hs (by decide) hf hn]
  simp only [State.flightWork, hs, State.idWork, hgood, ← hu, hresolve]
  rfl

/-- Settles O26: the tables of sources, and the decision of ID by its hazard test. -/
theorem idStallsOrResolves : Obligations.IdStallsOrResolves := by
  refine ⟨fun u rd rs rt n => ⟨hazard_one_source rfl u, hazard_two_sources rfl u, hazard_one_source rfl u,
    hazard_two_sources rfl u, hazard_one_source rfl u, hazard_two_sources rfl u, hazard_one_source rfl u,
    rfl, rfl, rfl, rfl, rfl, rfl, rfl, rfl, rfl, rfl, rfl, rfl, rfl, rfl⟩, fun s u f hs hf hn hgood hu => ?_⟩
  have henter : u = (ownOf f.ins s.width).enter s := by
    rw [hu]
    cases f.ins <;> rfl
  obtain ⟨bits, hshape⟩ := ownEnter_shape f.ins s.width s
  rw [exec_id hs hf hn hgood henter]
  constructor <;> intro hhaz <;> rw [hhaz, henter, hshape] <;> rfl

/-! #### The step -/

/-- Settles O37: the run loop's test of the cursor. -/
theorem cursorOutEndsTheRun : Obligations.CursorOutEndsTheRun := fun s hr hc =>
  step_cursorOut hr fun ⟨hlow, hhigh⟩ => hc ⟨hlow, by simp only [Config.storeCap] at hhigh; omega⟩

/-- The stages WB to IF2 leave what only IF1 and the end of the cycle write. -/
theorem backStages_sameFront {s t : State} (h : s.backStages = .next t) : SameFront s t := by
  obtain ⟨_, hwb, h⟩ := andThen_eq_next.1 h
  obtain ⟨_, hmem3, h⟩ := andThen_eq_next.1 h
  obtain ⟨_, hmem2, h⟩ := andThen_eq_next.1 h
  obtain ⟨_, hmem1, h⟩ := andThen_eq_next.1 h
  obtain ⟨_, hex, h⟩ := andThen_eq_next.1 h
  obtain ⟨_, hid, hif2⟩ := andThen_eq_next.1 h
  have start : SameFront s { s with events := [] } := ⟨rfl, rfl, rfl, rfl, rfl, rfl, rfl⟩
  exact start.trans <| (runStage_sameFront (by decide) hwb).trans <| (runStage_sameFront (by decide) hmem3).trans <|
    (runStage_sameFront (by decide) hmem2).trans <| (runStage_sameFront (by decide) hmem1).trans <|
    (runStage_sameFront (by decide) hex).trans <| (runStage_sameFront (by decide) hid).trans <|
    runStage_sameFront (by decide) hif2

/-- Settles O35: the stages before the fetch leave store and cursor, so the record that is fetched is that of the start
of the cycle. -/
theorem stepRunsTheDecodedInstruction : Obligations.StepRunsTheDecodedInstruction := by
  intro s i hr hc hd
  rw [step_running hr hc, State.runCycle]
  cases hback : s.backStages with
  | fault r => rfl
  | refused r => rfl
  | next u =>
    have hfront := backStages_sameFront hback
    have hdecode : decode u.fetched = .ok i := by rwa [State.fetched, hfront.store, hfront.cursor]
    simp only [andThen_next, State.runFetch, State.ifRunning, hdecode]

end Sys2Proof.Machine

/-! ### Completed cycles: their end, a taken branch, and the steps after it (R129, R132, R144) -/

namespace Sys2Proof.Machine

/-- A step that counts a cycle made the moves of one and did its data (R131). -/
theorem step_moves_data {s t : State} (hr : s.status = .running) (h : step s = .next t) (hcycle : t.cycle = s.cycle + 1) :
    ∃ u, CycleMoves s u ∧ CycleData s u ∧ t = u.finish := by
  rcases step_next_cases h with ⟨why, hdone, rfl⟩ | ⟨-, -, rfl⟩ | ⟨-, -, hrun⟩
  · simp at hcycle
  · simp at hcycle
  · refine (runCycle_fatal_or_data hr hrun).resolve_left fun ⟨info, _, hfatal⟩ => ?_
    rcases runCycle_fatal_or_moves hr hrun with ⟨-, hsame, -⟩ | ⟨u, hu, rfl⟩
    · omega
    · have hnot := finish_not_fatal u hu.running
      simp [State.isFatal, State.failure?, hfatal] at hnot

/-- Settles O49: the test at the end of the cycle is on the slots that the cycle leaves. -/
theorem drainedExactlyWhenEmpty : Obligations.DrainedExactlyWhenEmpty := by
  intro s t hr h hcycle
  obtain ⟨u, hm, -, rfl⟩ := step_moves_data hr h hcycle
  rw [finish_status, hm.running]

/-- Settles O51: the branch latch that EX has set makes the end of the cycle squash, and the squash writes no
reservation. -/
theorem takenBranchSquashes : Obligations.TakenBranchSquashes := by
  intro s t f rs target v hr h hcycle hf hi hv hne
  obtain ⟨u, hm, hd, rfl⟩ := step_moves_data hr h hcycle
  have htarget : takenTarget? s = some target := by simp [takenTarget?, hf, hi, hv, hne]
  have htaken : u.brTaken = true := by simp [hm.brTaken, htarget]
  rw [finish_slots, finish_cursor, finish_brTarget, if_pos htaken, if_pos htaken, if_pos htaken, hm.brTarget, htarget,
    hm.slots]
  refine ⟨rfl, rfl, rfl, hf, rfl, finish_brTaken u, rfl, fun g k hg hload => ?_⟩
  rw [finish_reserved, hd.reserved, reservedAfter, hg, Option.any_some, hload, Bool.true_or]

/-- A step counts at most one cycle (R131). -/
theorem step_cycle_le {s t : State} (h : step s = .next t) : t.cycle ≤ s.cycle + 1 := by
  rcases cycleCounterCountsRecords.2 s t h with ⟨hcycle, -⟩ | ⟨hcycle, -⟩ <;> omega

/-- Only a Running engine counts a cycle (R35). -/
theorem running_of_counts {s t : State} (h : step s = .next t) (hcycle : t.cycle = s.cycle + 1) :
    s.status = .running := by
  rcases step_next_cases h with ⟨why, hdone, rfl⟩ | ⟨hr, -⟩ | ⟨hr, -⟩
  · simp at hcycle
  · exact hr
  · exact hr

/-- From a state of the invariant a step that counts a cycle is the synchronous one, no fatal error stops it, and it
leads to a state of the invariant (R102). -/
theorem step_sync {s t : State} (hinv : s.inv = true) (h : step s = .next t) (hcycle : t.cycle = s.cycle + 1) :
    t = syncCycle s ∧ cycleFatal? s = none ∧ t.inv = true := by
  have hr := running_of_counts h hcycle
  obtain ⟨htaken, htarget⟩ := latch_clear_of_inv hinv hr
  obtain ⟨u, hm, hd, rfl⟩ := step_moves_data hr h hcycle
  exact ⟨finish_eq_syncCycle hm hd htaken htarget, hd.fatal, stepKeepsTheInvariant s _ hinv h⟩

/-- An EMPTY slot 2 stalls nothing (R111). -/
theorem stallsAtId_of_empty {s : State} (h : s.slots.slot2 = none) : stallsAtId s = false := by
  simp [stallsAtId, h]

/-- An EMPTY slot 3 takes no branch (R170). -/
theorem takenTarget?_of_empty {s : State} (h : s.slots.slot3 = none) : takenTarget? s = none := by
  simp [takenTarget?, h]

/-- What a completed cycle leaves as it is, and what it makes of stall bit, events, reservations and registers (R102). -/
theorem sync_data {s t : State} (h : t = syncCycle s) :
    t.width = s.width ∧ t.store = s.store ∧ t.currentStall = stallsAtId s ∧ t.events = cycleEvents s ∧
    (∀ k : Fin Config.numRegs, t.reserved[k] = reservedAfter s k) ∧
    ∀ k : Fin Config.numRegs, t.regs[k] = regAfter s k := by
  subst h
  simp [syncCycle, regsAfter]

/-- A completed cycle loads the fetch into slot 0 and moves the back slots on (R30, R124). -/
theorem sync_back {s t : State} (h : t = syncCycle s) :
    t.slots.slot0 = fetchedFlight s ∧ t.slots.slot4 = s.slots.slot3 ∧ t.slots.slot5 = s.slots.slot4 := by
  subst h
  exact ⟨rfl, rfl, rfl⟩

/-- After a taken branch slots 1 to 3 are EMPTY and the cursor is the target (R129). -/
theorem sync_of_taken {s t : State} (h : t = syncCycle s) {target : Int} (htaken : takenTarget? s = some target) :
    t.slots.slot1 = none ∧ t.slots.slot2 = none ∧ t.slots.slot3 = none ∧ t.cursor = target := by
  subst h
  simp [syncCycle, slotsAfter, htaken]

/-- A cycle without a stall and without a taken branch moves every slot on (R30). -/
theorem sync_of_no_stall {s t : State} (h : t = syncCycle s) (hstall : stallsAtId s = false)
    (htaken : takenTarget? s = none) :
    t.slots.slot1 = fetchedFlight s ∧ t.slots.slot2 = s.slots.slot1 ∧
    t.slots.slot3 = s.slots.slot2.map (resolve t) ∧ t.cursor = s.cursor + 1 := by
  have hresolve : resolve t = resolve { s with regs := regsAfter s } := resolve_congr (by rw [h]; rfl)
  rw [hresolve, h]
  simp [syncCycle, slotsAfter, hstall, htaken]

/-- Settles O58: the squash leaves nothing at ID and EX that could stall or branch, so the next cycle fetches at the
target and moves on. -/
theorem targetIsFetchedNext : Obligations.TargetIsFetchedNext := by
  intro s t u target i hinv hr htarget hst htu hcycle hdecode hnop
  have hle := step_cycle_le hst
  have hle' := step_cycle_le htu
  obtain ⟨ht, -, hinv'⟩ := step_sync hinv hst (by omega)
  obtain ⟨hu, -, -⟩ := step_sync hinv' htu (by omega)
  obtain ⟨slot1, slot2, slot3, hcursor⟩ := sync_of_taken ht htarget
  obtain ⟨-, hstore, -⟩ := sync_data ht
  obtain ⟨next0, next4, -⟩ := sync_back hu
  obtain ⟨next1, next2, next3, hnext⟩ := sync_of_no_stall hu (stallsAtId_of_empty slot2) (takenTarget?_of_empty slot3)
  have hfetched : fetchedFlight t = some ⟨i, t.issue, none, none⟩ := by
    simp [fetchedFlight, hstore, hcursor, hdecode, hnop]
  exact ⟨next0.trans hfetched, next1.trans hfetched, next2.trans slot1, by rw [next3, slot2]; rfl,
    next4.trans slot3, by rw [hnext, hcursor]⟩

/-! #### A reader directly behind a LOAD (R143) -/

/-- A cycle with a stall and without a taken branch keeps slots 1 and 2 and sends a bubble to slot 3 (R117). -/
theorem sync_of_stall {s t : State} (h : t = syncCycle s) (hstall : stallsAtId s = true)
    (htaken : takenTarget? s = none) :
    t.slots.slot2 = s.slots.slot2 ∧ t.slots.slot3 = none := by
  subst h
  simp [syncCycle, slotsAfter, hstall, htaken]

/-- A reservation that no LOAD at MEM2 clears stays (R31). -/
theorem reservedAfter_of_reserved {s : State} {k : Fin Config.numRegs} (h : s.reserved[k] = true)
    (hno : ∀ f, s.slots.slot5 = some f → loadsTo f.ins k = false) : reservedAfter s k = true := by
  have hany : (s.slots.slot5.any fun f => loadsTo f.ins k) = false := by
    rw [Option.any_eq_false_iff_get]
    exact fun hf => hno _ (Option.some_get hf).symm
  simp [reservedAfter, h, hany]

/-- No reservation is set but by a LOAD at ID (R31). -/
theorem reservedAfter_of_free {s : State} {k : Fin Config.numRegs} (h : s.reserved[k] = false) {g : InFlight}
    (hg : s.slots.slot2 = some g) (hno : loadsTo g.ins k = false) : reservedAfter s k = false := by
  simp [reservedAfter, h, hg, hno]

/-- A LOAD at MEM2 releases its register, unless a LOAD at ID reserves it (R31, R151). -/
theorem reservedAfter_of_released {s : State} {k : Fin Config.numRegs} {f g : InFlight} (hf : s.slots.slot5 = some f)
    (hload : loadsTo f.ins k = true) (hg : s.slots.slot2 = some g) (hno : loadsTo g.ins k = false) :
    reservedAfter s k = false := by
  simp [reservedAfter, hf, hload, hg, hno]

/-- An instruction at ID with a source that is reserved after the cycle stalls (R115). -/
theorem stallsAtId_of_reserved {s : State} {g : InFlight} (hg : s.slots.slot2 = some g) {r : Int} (hr : r ∈ sources g.ins)
    {k : Fin Config.numRegs} (hk : regIndex? r = some k) (h : reservedAfter s k = true) : stallsAtId s = true := by
  simp only [stallsAtId, hg, Option.any_some, List.any_eq_true]
  exact ⟨r, hr, by rw [hk]; exact h⟩

/-- An instruction at ID with no source that is reserved after the cycle does not stall (R115). -/
theorem stallsAtId_of_free {s : State} {g : InFlight} (hg : s.slots.slot2 = some g)
    (h : ∀ r ∈ sources g.ins, ∀ k, regIndex? r = some k → reservedAfter s k = false) : stallsAtId s = false := by
  simp only [stallsAtId, hg, Option.any_some, List.any_eq_false]
  intro r hr
  cases hk : regIndex? r with
  | none => simp
  | some k => simp [h r hr k hk]

/-- The cycle tells of the instruction at ID (R110, R121). -/
theorem id_event_mem {s t : State} (h : t = syncCycle s) {g : InFlight} (hg : s.slots.slot2 = some g) :
    ⟨g.label, if s.currentStall then .stall else .id⟩ ∈ t.events := by
  obtain ⟨-, -, -, hevents, -⟩ := sync_data h
  simp [hevents, cycleEvents_eq, hg, slotEvents, State.stageTag]

/-- A LOAD has its base as its only source, so an instruction with a second source loads to no register (R114). -/
theorem loadsTo_of_two_sources {i : Instr} {r r' : Int} (hr : r ∈ sources i) (hr' : r' ∈ sources i) (hne : r ≠ r')
    (k : Fin Config.numRegs) : loadsTo i k = false := by
  refine loadsTo_of_not_load (fun rd rs offset hi => hne ?_) k
  subst hi
  have hsource (q : Int) (hq : q ∈ sources (.load rd rs offset)) : q = rs := by simpa [sources, rsField, rtField] using hq
  rw [hsource r hr, hsource r' hr']

/-- The instruction that waits in ID for the LOAD to register k, which it names as rd: that LOAD is the only one that has
reserved a source of it. -/
structure WaitsFor (s : State) (c : InFlight) (rd : Int) (k : Fin Config.numRegs) : Prop where
  slot2 : s.slots.slot2 = some c
  reserved : s.reserved[k] = true
  others : ∀ r ∈ sources c.ins, r ≠ rd → ∀ j, regIndex? r = some j → s.reserved[j] = false

/-- A source that is not register k's number is another register. -/
theorem ne_of_regIndex? {r rd : Int} {j k : Fin Config.numRegs} (hne : r ≠ rd) (hr : regIndex? r = some j)
    (hrd : regIndex? rd = some k) : k ≠ j := fun e =>
  hne ((regIndex?_eq_some.1 hr).trans (e ▸ (regIndex?_eq_some.1 hrd).symm))

/-- A LOAD to k leaves ID, and the instruction behind it, which reads k, begins to wait (R113, R122). -/
theorem waitsFor_of_load {s t : State} (h : t = syncCycle s) {l c : InFlight} {rd rs offset : Int}
    {k : Fin Config.numRegs} (hl : s.slots.slot2 = some l) (hc : s.slots.slot1 = some c)
    (hi : l.ins = .load rd rs offset) (hk : regIndex? rd = some k)
    (hothers : ∀ r ∈ sources c.ins, r ≠ rd → ∀ j, regIndex? r = some j → s.reserved[j] = false)
    (hstall : stallsAtId s = false) (htaken : takenTarget? s = none) : WaitsFor t c rd k := by
  obtain ⟨-, slot2, -⟩ := sync_of_no_stall h hstall htaken
  obtain ⟨-, -, -, -, hreserved, -⟩ := sync_data h
  refine ⟨slot2.trans hc, ?_, fun r hr hne j hj => ?_⟩
  · rw [hreserved, reservedAfter, hl, Option.any_some, hi, loadsTo_load hk, decide_eq_true rfl, Bool.true_or]
  · rw [hreserved]
    refine reservedAfter_of_free (hothers r hr hne j hj) hl ?_
    rw [hi, loadsTo_load hk]
    exact decide_eq_false (ne_of_regIndex? hne hj hk)

/-- While the LOAD to k is not yet at MEM2, the instruction that waits for it goes on waiting, with a bubble behind the
LOAD (R115, R117). -/
theorem WaitsFor.stall {s t : State} {c : InFlight} {rd : Int} {k : Fin Config.numRegs} (hw : WaitsFor s c rd k)
    (h : t = syncCycle s) (hrd : rd ∈ sources c.ins) (hk : regIndex? rd = some k) (htaken : takenTarget? s = none)
    (hno : ∀ f, s.slots.slot5 = some f → loadsTo f.ins k = false) :
    WaitsFor t c rd k ∧ t.slots.slot3 = none ∧ t.currentStall = true := by
  have hbit := reservedAfter_of_reserved hw.reserved hno
  have hstall := stallsAtId_of_reserved hw.slot2 hrd hk hbit
  obtain ⟨slot2, slot3⟩ := sync_of_stall h hstall htaken
  obtain ⟨-, -, hcurrent, -, hreserved, -⟩ := sync_data h
  refine ⟨⟨slot2.trans hw.slot2, (hreserved k).trans hbit, fun r hr hne j hj => ?_⟩, slot3, hcurrent.trans hstall⟩
  rw [hreserved]
  exact reservedAfter_of_free (hw.others r hr hne j hj) hw.slot2 (loadsTo_of_two_sources hr hrd hne j)

/-- When the LOAD to k is at MEM2, the instruction that waits for it leaves ID (R119, R153). -/
theorem WaitsFor.leave {s t : State} {c f : InFlight} {rd : Int} {k : Fin Config.numRegs} (hw : WaitsFor s c rd k)
    (h : t = syncCycle s) (hrd : rd ∈ sources c.ins) (hk : regIndex? rd = some k) (hself : loadsTo c.ins k = false)
    (htaken : takenTarget? s = none) (hf : s.slots.slot5 = some f) (hload : loadsTo f.ins k = true) :
    t.slots.slot3 = some (resolve t c) := by
  have hstall : stallsAtId s = false := by
    refine stallsAtId_of_free hw.slot2 fun r hr j hj => ?_
    by_cases hne : r = rd
    · obtain rfl : k = j := Option.some.inj (hk.symm.trans (hne ▸ hj))
      exact reservedAfter_of_released hf hload hw.slot2 hself
    · exact reservedAfter_of_free (hw.others r hr hne j hj) hw.slot2 (loadsTo_of_two_sources hr hrd hne j)
  obtain ⟨-, -, slot3, -⟩ := sync_of_no_stall h hstall htaken
  rw [slot3, hw.slot2, Option.map_some]

/-- A LOAD at MEM2 in a cycle that no fatal error stops, with no ALU instruction at EX, leaves its cell in its
destination (R151). -/
theorem sync_load {s t : State} (h : t = syncCycle s) (hfatal : cycleFatal? s = none) {f : InFlight} {rd rs offset : Int}
    {k : Fin Config.numRegs} {base : Word} (hf : s.slots.slot5 = some f) (hi : f.ins = .load rd rs offset)
    (hbase : f.rsv = some base) (hk : regIndex? rd = some k) (hex : s.slots.slot3 = none) :
    ∃ a, cellAddress? (effectiveAddress s.width base offset) = some a ∧ t.regs[k] = s.memRead a := by
  have haddr := accessAddress_eq s (offset := offset) (by rw [hi]; rfl) hbase
  obtain ⟨a, ha⟩ : ∃ a, cellAddress? (accessAddress s f) = some a := by
    cases hcell : cellAddress? (accessAddress s f) with
    | some a => exact ⟨a, rfl⟩
    | none =>
      have hbad := mem2Fatal?_of_access hf (by rw [hi]; rfl)
      rw [hcell] at hbad
      simp [cycleFatal?, hbad] at hfatal
  obtain ⟨-, -, -, -, -, hregs⟩ := sync_data h
  refine ⟨a, haddr ▸ ha, ?_⟩
  rw [hregs, regAfter, hex, hf, ← toNat_of_cellAddress? ha]
  simp [hi, loadsTo_load hk]

/-- Settles O57. The reader waits from the cycle in which the LOAD leaves ID to the one in which it is at MEM2; there the
release frees it and it reads the loaded value. -/
theorem loadUseTakesTwoBubbles : Obligations.LoadUseTakesTwoBubbles := by
  intro s s1 s2 s3 s4 l c rd rs offset k hinv hr hl hc hi hrd hk hself hothers hstall htaken hno h1 h2 h3 h4 hcycle
  have hle1 := step_cycle_le h1
  have hle2 := step_cycle_le h2
  have hle3 := step_cycle_le h3
  have hle4 := step_cycle_le h4
  obtain ⟨e1, -, inv1⟩ := step_sync hinv h1 (by omega)
  obtain ⟨e2, -, inv2⟩ := step_sync inv1 h2 (by omega)
  obtain ⟨e3, -, inv3⟩ := step_sync inv2 h3 (by omega)
  obtain ⟨e4, fatal4, -⟩ := step_sync inv3 h4 (by omega)
  obtain ⟨width1, -, stall1, -⟩ := sync_data e1
  obtain ⟨width2, -⟩ := sync_data e2
  obtain ⟨width3, -⟩ := sync_data e3
  -- the LOAD on its way from ID to MEM2
  obtain ⟨-, -, load1, -⟩ := sync_of_no_stall e1 hstall htaken
  rw [hl, Option.map_some] at load1
  obtain ⟨-, -, back1⟩ := sync_back e1
  obtain ⟨-, load2, back2⟩ := sync_back e2
  obtain ⟨-, -, load3⟩ := sync_back e3
  have back2' : s2.slots.slot5 = s.slots.slot3 := by rw [back2, (sync_back e1).2.1]
  rw [load2, load1] at load3
  have hload : loadsTo (resolve s1 l).ins k = true := by
    change loadsTo l.ins k = true
    rw [hi, loadsTo_load hk, decide_eq_true rfl]
  have taken1 : takenTarget? s1 = none :=
    takenTarget?_of_not_bnez load1 fun _ _ e => by cases hi.symm.trans e
  -- the reader behind it
  have wait1 := waitsFor_of_load e1 hl hc hi hk hothers hstall htaken
  obtain ⟨wait2, bubble2, stall2⟩ := wait1.stall e2 hrd hk taken1 fun f hf => hno f (.inr (back1 ▸ hf))
  obtain ⟨wait3, bubble3, stall3⟩ := wait2.stall e3 hrd hk (takenTarget?_of_empty bubble2)
    fun f hf => hno f (.inl (back2' ▸ hf))
  have leave4 := wait3.leave e4 hrd hk hself (takenTarget?_of_empty bubble3) load3 hload
  have event2 := id_event_mem e2 wait1.slot2
  have event3 := id_event_mem e3 wait2.slot2
  have event4 := id_event_mem e4 wait3.slot2
  simp only [stall1, hstall, stall2, stall3, if_true, Bool.false_eq_true, if_false] at event2 event3 event4
  -- what the LOAD delivers
  obtain ⟨content3, -⟩ := inv_iff.1 inv3
  obtain ⟨-, -, ⟨base, hbase, -⟩, -⟩ := resolved_spec (content3.occupants .mem2 _ load3)
  obtain ⟨a, ha, hreg⟩ := sync_load e4 fatal4 load3 hi hbase hk bubble3
  rw [width3, width2, width1] at ha
  have hread : s4.readReg? rd = some (s3.memRead a) := by simp [State.readReg?, hk, ← hreg]
  exact ⟨wait1.slot2, by rw [load1]; rfl, wait2.slot2, bubble2, event2, wait3.slot2, bubble3, event3, event4,
    resolve s1 l, base, a, load3, rfl, hbase, ha, hreg, leave4, fun e => by simp [resolve, e, hread],
    fun e => by simp [resolve, e, hread]⟩

end Sys2Proof.Machine

/-! ### LOAD and STORE: the address, what they do at MEM2, and the frame of STORE (R150 to R156) -/

namespace Sys2Proof

/-- A wrapped summand wraps to the same Word (R9). -/
theorem ofInt_add_ofInt (W : Nat) (a b : Int) : Word.ofInt W (a + Word.ofInt W b) = Word.ofInt W (a + b) :=
  Int.add_bmod_bmod

end Sys2Proof

namespace Sys2Proof.Machine

/-- Settles O11: wrapping the offset first makes no difference to the wrapped sum. -/
theorem addressSumWraps : Obligations.AddressSumWraps :=
  ⟨fun W base offset => ofInt_add_ofInt W base offset, by decide, by decide, by decide⟩

/-- At MEM2 the occupant does its own work and, when that leaves the engine Running, emits MEM2 and moves to slot 6
(R107). -/
theorem exec_mem2_next {s u : State} {f : InFlight} (hs : s.stage = .mem2) (hf : s.slots.slot5 = some f)
    (hn : f.ins ≠ .nop) (hown : (ownOf f.ins s.width).mem2 f s = .next u) (hu : u.status = .running) :
    exec f.ins s = .next ((u.emit f.label .mem2).setSlot .mem3 (some f)) := by
  rw [exec_occupant_at hs (by decide) hf hn]
  simp only [State.flightWork, hs, hown, andThen_next, ifRunning_running hu]

/-- Settles O17: the own work of the LOAD is the register write with the release. -/
theorem loadReadsTheCellAtMem2 : Obligations.LoadReadsTheCellAtMem2 := by
  intro s f rd rs offset k base a hs hr hf hi hk hbase ha
  have hown : (ownOf f.ins s.width).mem2 f s = .next ((s.writeReg k (s.memRead a)).setReserved k false) := by
    simp only [hi, ownOf, loadAtMem2, hk, hbase, ha]
  exact hi ▸ exec_mem2_next hs hf (by simp [hi]) hown hr

/-- Settles O18: the own work of the STORE is the memory write, which leaves every other cell. -/
theorem storeWritesTheCellAtMem2 : Obligations.StoreWritesTheCellAtMem2 := by
  intro s f rt rs offset base v a hs hr hf hi hbase hv ha
  have hown : (ownOf f.ins s.width).mem2 f s = .next (s.memWrite a v) := by
    simp only [hi, ownOf, storeAtMem2, hbase, hv, ha]
  have hexec := exec_mem2_next hs hf (by simp [hi]) hown hr
  rw [hi] at hexec
  exact ⟨_, hexec, fun hwf => read_write_same_from hwf a v, fun b hb => read_write_other s.mem v hb, rfl⟩

/-- Settles O31: of the effects of a meaning a STORE has only the memory write at MEM2, to the address that the occupant
of slot 5 gives. -/
theorem storeFrame : Obligations.StoreFrame := by
  intro s t rt rs offset h
  have heffect := exec_dataEffect h
  obtain ⟨htaken, htarget⟩ := heffect.latch_eq (by simp)
  have hregs (k : Fin Config.numRegs) : t.regs[k] = s.regs[k] := by
    simpa [computesTo, loadsTo] using heffect.regs_cases k
  have hreserved (k : Fin Config.numRegs) : t.reserved[k] = s.reserved[k] := by
    simpa [loadsTo] using heffect.reserved_cases k
  refine ⟨Vector.ext fun k hk => hregs ⟨k, hk⟩, Vector.ext fun k hk => hreserved ⟨k, hk⟩, htaken, htarget,
    exec_sameAmbient h, fun hs b => ?elsewhere, fun f base b hf hbase hb => ?otherCell⟩
  case elsewhere =>
    have hmem : t.mem = s.mem := (exec_mem_cases h).resolve_right fun e => hs e.1
    exact congrArg (Memory.read · b) hmem
  case otherCell =>
    rcases exec_mem_cases h with hmem | ⟨hs, g, a, v, hg, ⟨rt', rs', offset', base', hi, hbase', -, ha⟩, hmem⟩
    · exact congrArg (Memory.read · b) hmem
    · obtain rfl : f = g := Option.some.inj (hf.symm.trans hg)
      obtain rfl : base = base' := Option.some.inj (hbase.symm.trans hbase')
      obtain ⟨hocc, -⟩ := exec_mem2_own hs hf h
      obtain ⟨-, -, rfl⟩ : rt' = rt ∧ rs' = rs ∧ offset' = offset := by simpa [hi] using hocc
      have hne : b ≠ a := fun e => hb (e ▸ ha)
      simp only [State.memRead, hmem, read_write_other s.mem v hne]

end Sys2Proof.Machine

/-! ### A reader that nothing releases stays in ID (R154, R247, R249) -/

namespace Sys2Proof.Machine

/-- A run of n + 1 steps is a step and a run of n steps (R101). -/
theorem steps_succ_eq_next {n : Nat} {s t : State} :
    steps (n + 1) s = .next t ↔ ∃ u, step s = .next u ∧ steps n u = .next t := by
  have hcore : Sys2Proof.core.step s = step s := rfl
  cases hs : step s <;> simp [steps, Host.Core.run, hcore, hs]

/-- No step follows a fatal error, so a run from one that answers a next state has no step (R201). -/
theorem steps_of_fatal {n : Nat} {s t : State} {info : FatalInfo} (hs : s.status = .fatal info)
    (h : steps n s = .next t) : t = s := by
  cases n with
  | zero => exact (Host.Outcome.next.inj h).symm
  | succ n =>
    obtain ⟨u, hu, -⟩ := steps_succ_eq_next.1 h
    simp [step, State.iterate, hs] at hu

/-- A step of a Running engine with its cursor in the store is stopped by a fatal error, or it is the synchronous cycle
(R102, R201). -/
theorem step_fatal_or_sync {s t : State} (hinv : s.inv = true) (hr : s.status = .running) (hc : s.cursorInStore)
    (h : step s = .next t) : (∃ info, t.status = .fatal info) ∨ t = syncCycle s := by
  rcases runCycle_fatal_or_data hr (step_running hr hc ▸ h) with ⟨info, -, hfatal⟩ | ⟨u, hm, hd, rfl⟩
  · exact .inl ⟨info, hfatal⟩
  · obtain ⟨htaken, htarget⟩ := latch_clear_of_inv hinv hr
    exact .inr (finish_eq_syncCycle hm hd htaken htarget)

/-- What a cycle with a stall and without a taken branch leaves before ID: slot 1, the cursor and the issue counter
(R117, R122, R126). -/
structure SameFetch (s t : State) : Prop where
  slot1 : t.slots.slot1 = s.slots.slot1
  cursor : t.cursor = s.cursor
  issue : t.issue = s.issue

/-- What two runs of steps one after the other both leave, they leave together. -/
theorem SameFetch.trans {s t u : State} (h : SameFetch s t) (h' : SameFetch t u) : SameFetch s u :=
  ⟨h'.slot1.trans h.slot1, h'.cursor.trans h.cursor, h'.issue.trans h.issue⟩

/-- A stall without a taken branch holds slot 1, the cursor and the issue counter (R117, R122, R126). -/
theorem sameFetch_of_stall {s t : State} (h : t = syncCycle s) (hstall : stallsAtId s = true)
    (htaken : takenTarget? s = none) : SameFetch s t := by
  subst h
  constructor <;> simp [syncCycle, slotsAfter, hstall, htaken]

/-- A completed cycle that leaves a slot occupied leaves the engine Running (R132). -/
theorem sync_running {s t : State} (h : t = syncCycle s) {g : InFlight} (hg : t.slots.slot2 = some g) :
    t.status = .running := by
  subst h
  refine if_neg fun hempty => ?_
  have hnone : (slotsAfter s).slot2 = none := by rw [hempty]; rfl
  cases hg.symm.trans hnone

/-- The instruction g in ID reads register k, which is reserved or which it reserves itself, and no LOAD in flight will
release k (R154, R249). -/
structure Hangs (s : State) (g : InFlight) (k : Fin Config.numRegs) : Prop where
  slot2 : s.slots.slot2 = some g
  reads : ∃ r ∈ sources g.ins, regIndex? r = some k
  reserved : s.reserved[k] = true ∨ loadsTo g.ins k = true
  unreleased : ∀ f, s.slots.slot3 = some f ∨ s.slots.slot4 = some f ∨ s.slots.slot5 = some f → loadsTo f.ins k = false
  untaken : takenTarget? s = none

/-- The register that the instruction hangs on is reserved after the cycle too: g reserves it again, or no LOAD at MEM2
clears it (R113, R151). -/
theorem Hangs.stillReserved {s : State} {g : InFlight} {k : Fin Config.numRegs} (hs : Hangs s g k) :
    reservedAfter s k = true := by
  rcases hs.reserved with hbit | hself
  · exact reservedAfter_of_reserved hbit fun f hf => hs.unreleased f (.inr (.inr hf))
  · simp [reservedAfter, hs.slot2, hself]

/-- A hanging instruction stalls (R115). -/
theorem Hangs.stalls {s : State} {g : InFlight} {k : Fin Config.numRegs} (hs : Hangs s g k) :
    stallsAtId s = true := by
  obtain ⟨r, hr, hk⟩ := hs.reads
  exact stallsAtId_of_reserved hs.slot2 hr hk hs.stillReserved

/-- A hanging instruction hangs on after the cycle: it stalls, and what moves into slots 3 to 5 is a bubble and what was
in slots 3 and 4 (R117, R247). -/
theorem Hangs.sync {s t : State} {g : InFlight} {k : Fin Config.numRegs} (hs : Hangs s g k) (h : t = syncCycle s) :
    Hangs t g k := by
  obtain ⟨slot2, slot3⟩ := sync_of_stall h hs.stalls hs.untaken
  obtain ⟨-, slot4, slot5⟩ := sync_back h
  obtain ⟨-, -, -, -, hreserved, -⟩ := sync_data h
  refine ⟨slot2.trans hs.slot2, hs.reads, .inl ((hreserved k).trans hs.stillReserved), fun f hf => ?_,
    takenTarget?_of_empty slot3⟩
  rw [slot3, slot4, slot5] at hf
  rcases hf with hbubble | hf | hf
  · cases hbubble
  · exact hs.unreleased f (.inl hf)
  · exact hs.unreleased f (.inr (.inl hf))

/-- After any number of steps that answer a next state the engine is Fatal, or the instruction hangs on and nothing has
been fetched behind it. -/
theorem Hangs.fatal_or_hangs {g : InFlight} {k : Fin Config.numRegs} (n : Nat) {s t : State} (hinv : s.inv = true)
    (hr : s.status = .running) (hc : s.cursorInStore) (hs : Hangs s g k) (h : steps n s = .next t) :
    t.isFatal = true ∨ (t.status = .running ∧ Hangs t g k ∧ SameFetch s t) := by
  induction n generalizing s with
  | zero =>
    obtain rfl : s = t := Host.Outcome.next.inj h
    exact .inr ⟨hr, hs, rfl, rfl, rfl⟩
  | succ n ih =>
    obtain ⟨u, hu, hrest⟩ := steps_succ_eq_next.1 h
    rcases step_fatal_or_sync hinv hr hc hu with ⟨info, hfatal⟩ | hsync
    · left
      rw [steps_of_fatal hfatal hrest]
      simp [State.isFatal, State.failure?, hfatal]
    · have hang : Hangs u g k := hs.sync hsync
      have hfetch := sameFetch_of_stall hsync hs.stalls hs.untaken
      have hcursor : u.cursorInStore := by rwa [State.cursorInStore, hfetch.cursor]
      exact (ih (stepKeepsTheInvariant s u hinv hu) (sync_running hsync hang.slot2) hcursor hang hrest).imp_right
        fun ⟨hrun, hang', hfetch'⟩ => ⟨hrun, hang', hfetch.trans hfetch'⟩

/-- Settles O56, by the invariant `Hangs` of the steps. -/
theorem unreleasedReaderHangsForEver : Obligations.UnreleasedReaderHangsForEver := by
  intro s g r k hinv hr hc hg _ hsource hk hreserved hno htaken n t h
  have hang : Hangs s g k := ⟨hg, ⟨r, hsource, hk⟩, hreserved, hno, htaken⟩
  exact (hang.fatal_or_hangs n hinv hr hc h).imp_right fun ⟨hrun, hang', hfetch⟩ =>
    ⟨hrun, hang'.slot2, hfetch.slot1, hfetch.cursor, hfetch.issue⟩

end Sys2Proof.Machine

/-! ### BRANCH_NE_ZERO: its effect at EX, its frame, and the cycle in which it is not taken (R170, R172) -/

namespace Sys2Proof.Machine

/-- At EX the occupant does its own work and, when that leaves the engine Running, emits EX and moves to slot 4 (R109). -/
theorem exec_ex_next {s u : State} {f : InFlight} (hs : s.stage = .ex) (hf : s.slots.slot3 = some f)
    (hn : f.ins ≠ .nop) (hown : (ownOf f.ins s.width).ex f s = .next u) (hu : u.status = .running) :
    exec f.ins s = .next ((u.emit f.label .ex).setSlot .mem1 (some f)) := by
  rw [exec_occupant_at hs (by decide) hf hn]
  simp only [State.flightWork, hs, hown, andThen_next, ifRunning_running hu]

/-- With an operand that is 0 BNEZ_EX changes nothing (R172). -/
theorem bnezAtEx_zero {target : Int} {f : InFlight} (s : State) (hv : f.rsv = some 0) :
    bnezAtEx target f s = .next s := by
  simp [bnezAtEx, hv, notZero]

/-- With an operand other than 0 BNEZ_EX takes the branch (R170). -/
theorem bnezAtEx_nonzero {target : Int} {f : InFlight} (s : State) {v : Word} (hv : f.rsv = some v) (hne : v ≠ 0) :
    bnezAtEx target f s = .next (s.takeBranch target) := by
  simp [bnezAtEx, hv, notZero, hne]

/-- Settles O19: the own work of the branch, by whether the value is 0. -/
theorem bnezSetsTheBranchLatchAtEx : Obligations.BnezSetsTheBranchLatchAtEx := by
  intro s f rs target v hs hr hf hi hv
  have hown : (ownOf f.ins s.width).ex f s = bnezAtEx target f s := by rw [hi]; rfl
  have hn : f.ins ≠ .nop := by simp [hi]
  rw [← hi]
  by_cases hzero : v = 0
  · subst hzero
    exact exec_ex_next hs hf hn (hown.trans (bnezAtEx_zero s hv)) hr
  · rw [if_neg hzero, if_neg hzero]
    exact exec_ex_next hs hf hn (hown.trans (bnezAtEx_nonzero s hv hzero)) hr

/-- Of the effects of a meaning BRANCH_NE_ZERO has none, or at EX that of a taken branch (R170). -/
theorem DataEffect.bnez_cases {rs target : Int} {s t : State} (h : DataEffect (.bnez rs target) s t) :
    SameData s t ∨ (s.stage = .ex ∧ SameData (s.takeBranch target) t) := by
  cases h with
  | same h => exact .inl h
  | branch h hs hi =>
    obtain ⟨-, rfl⟩ := Instr.bnez.inj hi
    exact .inr ⟨hs, h⟩
  | reserve _ _ hload | load _ _ hload => simp [loadsTo] at hload
  | alu _ _ hcomputes => simp [computesTo] at hcomputes
  | store _ _ hstore => cases hstore

/-- Settles O32: a taken branch writes the branch latch only, and that at EX. -/
theorem bnezFrame : Obligations.BnezFrame := by
  intro s t rs target h
  have hambient := exec_sameAmbient h
  rcases (exec_dataEffect h).bnez_cases with hsame | ⟨hs, hsame⟩
  · exact ⟨hsame.regs, fun a => congrArg (Memory.read · a) hsame.mem, hsame.reserved, hambient,
      fun _ => ⟨hsame.brTaken, hsame.brTarget⟩⟩
  · exact ⟨hsame.regs, fun a => congrArg (Memory.read · a) hsame.mem, hsame.reserved, hambient,
      fun hne => absurd hs hne⟩

/-- A branch at EX whose operand is 0 is not taken (R172). -/
theorem takenTarget?_of_zero {s : State} {f : InFlight} {rs target : Int} (hf : s.slots.slot3 = some f)
    (hi : f.ins = .bnez rs target) (hv : f.rsv = some 0) : takenTarget? s = none := by
  simp [takenTarget?, hf, hi, hv]

/-- The stall decision that a completed cycle leaves (R115, R130). -/
theorem sync_pendingStall {s t : State} (h : t = syncCycle s) : t.pendingStall = stallsAtId s := by
  rw [h]; rfl

/-- Settles O52. No branch is taken, so the stall alone decides: with it the front of the pipeline stays and a bubble
goes to slot 3, without it every slot and the cursor move on. -/
theorem untakenBranchFallsThrough : Obligations.UntakenBranchFallsThrough := by
  intro s t f rs target hinv _ h hcycle hf hi hv
  obtain ⟨hsync, -, -⟩ := step_sync hinv h hcycle
  have huntaken := takenTarget?_of_zero hf hi hv
  rw [sync_pendingStall hsync]
  cases hstall : stallsAtId s with
  | true =>
    obtain ⟨slot2, slot3⟩ := sync_of_stall hsync hstall huntaken
    have hfetch := sameFetch_of_stall hsync hstall huntaken
    exact ⟨hfetch.cursor, hfetch.slot1, slot2, by simp [slot3]⟩
  | false =>
    obtain ⟨slot1, slot2, slot3, hcursor⟩ := sync_of_no_stall hsync hstall huntaken
    obtain ⟨slot0, -, -⟩ := sync_back hsync
    exact ⟨hcursor, slot1.trans slot0.symm, slot2, by simp [slot3]⟩

end Sys2Proof.Machine

/-! ### The ALU instructions and NOP: words, EX, the EMPTY slot, and a result's way to the next instruction (R181 to
R191) -/

namespace Sys2Proof.Machine

/-- Settles O9: bit vectors add and subtract by the same balanced remainder of their signed readings. -/
theorem wordArithmeticIsTwosComplement : Obligations.WordArithmeticIsTwosComplement :=
  fun _ a b => ⟨(BitVec.toInt_add a b).symm, BitVec.toInt_sub.symm⟩

/-! #### The ALU instructions at EX -/

/-- With rt a register the second operand is the value read from it (R76). -/
theorem secondOperand_register {f : InFlight} {i : Instr} {rt : Int} (hi : f.ins = i) (hrt : rtField i = some rt)
    (W : Nat) : secondOperand W f = f.rtv := by
  simp only [secondOperand, hi, hrt]

/-- Without an rt the second operand is the wrapped immediate (R76). -/
theorem secondOperand_immediate {f : InFlight} {i : Instr} (hi : f.ins = i) (hrt : rtField i = none) (W : Nat) :
    secondOperand W f = some (Word.ofInt W (offsetField i)) := by
  simp only [secondOperand, hi, hrt]

/-- An ALU instruction at EX writes the operation's result to its destination, emits EX and moves to slot 4 (R109,
R181). -/
theorem exec_alu_ex {s : State} {f : InFlight} {i : Instr} {op : Word → Word → Word} {rd : Int}
    {k : Fin Config.numRegs} {a b : Word} (hs : s.stage = .ex) (hr : s.status = .running)
    (hf : s.slots.slot3 = some f) (hi : f.ins = i) (hn : i ≠ .nop) (hown : (ownOf i s.width).ex = aluAtEx op rd)
    (hk : regIndex? rd = some k) (ha : f.rsv = some a) (hb : secondOperand s.width f = some b) :
    exec i s = .next { s with
      regs := s.regs.set k (op a b)
      events := s.events ++ [⟨f.label, .ex⟩]
      slots := { s.slots with slot4 := some f } } := by
  subst hi
  have hwrite : (ownOf f.ins s.width).ex f s = .next (s.writeReg k (op a b)) := by
    simp only [hown, aluAtEx, hk, ha, hb]
  exact exec_ex_next hs hf hn hwrite hr

/-- Settles O13: the operation is `wordAdd`, the second operand the value of rt. -/
theorem addWritesTheSumAtEx : Obligations.AddWritesTheSumAtEx :=
  fun s _ _ _ _ _ _ _ hs hr hf hi hk ha hb =>
  exec_alu_ex hs hr hf hi (by simp) rfl hk ha ((secondOperand_register hi rfl s.width).trans hb)

/-- Settles O14: the operation is `wordAdd`, the second operand the immediate. -/
theorem addiWritesTheSumAtEx : Obligations.AddiWritesTheSumAtEx :=
  fun s _ _ _ _ _ _ hs hr hf hi hk ha =>
  exec_alu_ex hs hr hf hi (by simp) rfl hk ha (secondOperand_immediate hi rfl s.width)

/-- Settles O15: the operation is `wordSub`, the second operand the value of rt. -/
theorem subWritesTheDifferenceAtEx : Obligations.SubWritesTheDifferenceAtEx :=
  fun s _ _ _ _ _ _ _ hs hr hf hi hk ha hb =>
  exec_alu_ex hs hr hf hi (by simp) rfl hk ha ((secondOperand_register hi rfl s.width).trans hb)

/-- Settles O16: the operation is `wordSub`, the second operand the immediate. -/
theorem subiWritesTheDifferenceAtEx : Obligations.SubiWritesTheDifferenceAtEx :=
  fun s _ _ _ _ _ _ hs hr hf hi hk ha =>
  exec_alu_ex hs hr hf hi (by simp) rfl hk ha (secondOperand_immediate hi rfl s.width)

/-! #### NOP -/

/-- Settles O20: the fetch of the sentinel is `if1Work` with no content, whose one decision is that of the stall. -/
theorem nopIsFetchedAsEmpty : Obligations.NopIsFetchedAsEmpty := by
  intro s hs
  rw [exec_nop_if1 hs]
  cases hp : s.pendingStall <;> simp [State.if1Work, State.setSlot, hp]

/-- NOP answers a next state only at IF1 or on an EMPTY slot, and then it is the work of the EMPTY slot (R190). -/
theorem exec_nop_next {s t : State} (h : exec .nop s = .next t) :
    t = s.emptyWork ∧ (s.stage ≠ .if1 → s.slots.get s.stage = none) := by
  by_cases hs : s.stage = .if1
  · rw [exec_nop_if1 hs] at h
    refine ⟨?_, fun hne => absurd hs hne⟩
    rw [State.emptyWork, hs]
    exact (Host.Outcome.next.inj h).symm
  · rcases exec_next_occupant hs h with ⟨-, hempty, ht⟩ | ⟨hne, -⟩
    · exact ⟨ht, fun _ => hempty⟩
    · exact absurd rfl hne

/-- IF2 tells of an occupied slot 1 only, and raises no error (R122). -/
theorem if2Work_silent {s : State} (h : s.slots.slot1 = none) :
    s.if2Work.events = s.events ∧ s.if2Work.status = s.status := by
  cases hp : s.pendingStall <;> simp [State.if2Work, h, hp]

/-- The work on an EMPTY slot emits no event and raises no error (R104, R190). -/
theorem emptyWork_silent {s : State} (hempty : s.stage ≠ .if1 → s.slots.get s.stage = none) :
    s.emptyWork.events = s.events ∧ s.emptyWork.status = s.status := by
  cases hs : s.stage <;> rw [State.emptyWork, hs]
  case if1 => exact ⟨by simp [if1Work_events, slotEvents], if1Work_status s none⟩
  case if2 =>
    rw [hs] at hempty
    exact if2Work_silent (hempty (by decide))
  all_goals exact ⟨rfl, rfl⟩

/-- Settles O33: NOP's work is that of an EMPTY slot, which writes no data, tells of nothing and checks nothing. -/
theorem nopFrame : Obligations.NopFrame := by
  intro s t h
  have hambient := exec_sameAmbient h
  obtain ⟨rfl, hempty⟩ := exec_nop_next h
  have hdata := emptyWork_sameData s
  obtain ⟨hevents, hstatus⟩ := emptyWork_silent hempty
  exact ⟨hdata.regs, fun a => congrArg (Memory.read · a) hdata.mem, hdata.reserved, hevents, hdata.brTaken,
    hdata.brTarget, hstatus, hambient⟩

/-! #### An ALU result and the instruction right behind it (R188) -/

/-- The ALU instruction at EX writes last, so its destination holds its result after the cycle (R189). -/
theorem regAfter_of_computesTo {s : State} {f : InFlight} {k : Fin Config.numRegs} (hf : s.slots.slot3 = some f)
    (hk : computesTo f.ins k = true) : regAfter s k = aluResult s f := by
  simp only [regAfter_eq, computedReg, hf, if_pos hk]

/-- A branch computes to no register, so an ALU instruction at EX takes no branch (R170, R181). -/
theorem takenTarget?_of_computesTo {s : State} {f : InFlight} {k : Fin Config.numRegs} (hf : s.slots.slot3 = some f)
    (hk : computesTo f.ins k = true) : takenTarget? s = none :=
  takenTarget?_of_not_bnez hf fun _ _ hi => by simp [hi, computesTo] at hk

/-- Unless a branch is taken, what leaves ID is its occupant, with the registers that the cycle leaves (R103, R118). -/
theorem sync_leaves_id {s t : State} (h : t = syncCycle s) (htaken : takenTarget? s = none) {g g' : InFlight}
    (hg : s.slots.slot2 = some g) (hg' : t.slots.slot3 = some g') : g' = resolve t g := by
  cases hstall : stallsAtId s with
  | true =>
    obtain ⟨-, bubble⟩ := sync_of_stall h hstall htaken
    cases bubble.symm.trans hg'
  | false =>
    obtain ⟨-, -, slot3, -⟩ := sync_of_no_stall h hstall htaken
    rw [hg'] at slot3
    simpa [hg] using slot3

/-- A resolved operand is the value of the register that it names (R118). -/
theorem bind_readReg? {t : State} {field : Option Int} {r : Int} {k : Fin Config.numRegs} (hfield : field = some r)
    (hk : regIndex? r = some k) : field.bind t.readReg? = some t.regs[k] := by
  simp [hfield, State.readReg?, hk]

/-- Settles O53. The result is in its register before ID reads it, ID stalls for reservations only, which an ALU
instruction never makes, and no branch is taken in the cycle. -/
theorem resultsReachTheNextInstruction : Obligations.ResultsReachTheNextInstruction := by
  intro s t f g k hinv _ h hcycle hf hk hg
  obtain ⟨hsync, -, -⟩ := step_sync hinv h hcycle
  obtain ⟨-, -, -, -, -, hregs⟩ := sync_data hsync
  have hresult : t.regs[k] = aluResult s f := (hregs k).trans (regAfter_of_computesTo hf hk)
  have htaken := takenTarget?_of_computesTo hf hk
  refine ⟨hresult, fun hfree => ?leaves, fun g' hg' => ?delivered⟩
  case leaves =>
    have hstall : stallsAtId s = false := stallsAtId_of_free hg fun r hr j hj =>
      reservedAfter_of_free (hfree r hr j hj).1 hg (hfree r hr j hj).2
    obtain ⟨-, -, slot3, -⟩ := sync_of_no_stall hsync hstall htaken
    exact ⟨(sync_pendingStall hsync).trans hstall, by rw [slot3, hg, Option.map_some]⟩
  case delivered =>
    obtain rfl := sync_leaves_id hsync htaken hg hg'
    exact ⟨rfl, fun r hr hrk => hresult ▸ bind_readReg? hr hrk, fun r hr hrk => hresult ▸ bind_readReg? hr hrk⟩

end Sys2Proof.Machine

/-! ### The two fatal errors and the cycle that one of them stops (R201 to R206) -/

namespace Sys2Proof.Machine

/-! #### The check of the register fields, and the fatal error at ID (R112, R202) -/

/-- An index that is that of no register is outside 0 to 31 (R21, R202). -/
theorem regIndex?_eq_none {i : Int} : regIndex? i = none ↔ ¬ (0 ≤ i ∧ i ≤ 31) := by
  unfold regIndex?
  simp only [Config.numRegs]
  split <;> simp only [reduceCtorEq, false_iff, true_iff] <;> omega

/-- The check finds the first field of a list when it is bad, and else goes on with the rest (R112). -/
theorem find?_bad_cons (e : FatalField × Int) (rest : List (FatalField × Int)) :
    (e :: rest).find? (fun e => (regIndex? e.2).isNone) =
      if regIndex? e.2 = none then some e else rest.find? fun e => (regIndex? e.2).isNone := by
  cases h : regIndex? e.2 <;> simp [h]

/-- The check of an instruction that uses no register field. -/
theorem firstBadField_no_field {i : Instr} (h : usedFields i = []) : firstBadField i = none := by
  rw [firstBadField, h, List.find?_nil]

/-- The check of an instruction that uses one register field (R202). -/
theorem firstBadField_one_field {i : Instr} {x : FatalField} {a : Int} (h : usedFields i = [(x, a)]) :
    firstBadField i = if regIndex? a = none then some (x, a) else none := by
  rw [firstBadField, h, find?_bad_cons, List.find?_nil]

/-- The check of an instruction that uses two register fields (R202). -/
theorem firstBadField_two_fields {i : Instr} {x y : FatalField} {a b : Int} (h : usedFields i = [(x, a), (y, b)]) :
    firstBadField i =
      if regIndex? a = none then some (x, a) else if regIndex? b = none then some (y, b) else none := by
  rw [firstBadField, h, find?_bad_cons, find?_bad_cons, List.find?_nil]

/-- The check of an instruction that uses three register fields (R202). -/
theorem firstBadField_three_fields {i : Instr} {x y z : FatalField} {a b c : Int}
    (h : usedFields i = [(x, a), (y, b), (z, c)]) :
    firstBadField i = if regIndex? a = none then some (x, a) else if regIndex? b = none then some (y, b)
      else if regIndex? c = none then some (z, c) else none := by
  rw [firstBadField, h, find?_bad_cons, find?_bad_cons, find?_bad_cons, List.find?_nil]

/-- Settles O24: each format's list of used fields, in the order in which the check goes through it. -/
theorem registerFieldsAreCheckedInOrder : Obligations.RegisterFieldsAreCheckedInOrder := fun _ _ _ _ =>
  ⟨firstBadField_two_fields rfl, firstBadField_two_fields rfl, firstBadField_one_field rfl,
    firstBadField_three_fields rfl, firstBadField_two_fields rfl, firstBadField_three_fields rfl,
    firstBadField_two_fields rfl, firstBadField_no_field rfl, regIndex?_eq_none, fun _ => regIndex?_eq_some⟩

/-- ID is its decision on the occupant (R110). -/
theorem flightWork_id {s : State} (hs : s.stage = .id) (own : OwnWork) (f : InFlight) :
    s.flightWork own f = .next (s.idWork own.enter f) := by
  simp only [State.flightWork, hs]

/-- A bad register field makes ID the fatal error, and nothing else (R112). -/
theorem idWork_of_bad_field {f : InFlight} {field : FatalField} {v : Int} (s : State) (enter : State → State)
    (hbad : firstBadField f.ins = some (field, v)) :
    s.idWork enter f = s.raiseFatal ⟨.regIndex, f.label, field, v⟩ := by
  simp only [State.idWork, hbad]

/-- Settles O25: the check is the first thing that ID does, and its fatal error the only thing then. -/
theorem badRegisterIsFatalAtId : Obligations.BadRegisterIsFatalAtId := by
  intro s f field v hs hf hn hbad
  rw [exec_occupant_at hs (by decide) hf hn, flightWork_id hs, idWork_of_bad_field s _ hbad]
  rfl

/-! #### The fatal error at MEM2 (R150, R204) -/

/-- The end of EX and of MEM2: unless the own work has stopped the run, the event and the move to the next slot (R107,
R109). -/
def moveOn (f : InFlight) (tag : Tag) (st : Stage) (t : State) : Out :=
  t.ifRunning fun t => .next ((t.emit f.label tag).setSlot st (some f))

/-- EX is the own work, and then the move (R109). -/
theorem flightWork_ex {s : State} (hs : s.stage = .ex) (own : OwnWork) (f : InFlight) :
    s.flightWork own f = (own.ex f s).andThen (moveOn f .ex .mem1) := by
  simp only [State.flightWork, hs]
  rfl

/-- MEM2 is the own work, and then the move (R107). -/
theorem flightWork_mem2 {s : State} (hs : s.stage = .mem2) (own : OwnWork) (f : InFlight) :
    s.flightWork own f = (own.mem2 f s).andThen (moveOn f .mem2 .mem3) := by
  simp only [State.flightWork, hs]
  rfl

/-- The own work at MEM2 of a resolved LOAD or STORE with a bad address is the fatal error (R204). -/
theorem ownMem2_of_bad_address {s : State} {f : InFlight} {base : Word} (haccess : isAccess f.ins = true)
    (hres : f.resolved s.width = true) (hbase : f.rsv = some base)
    (hbad : cellAddress? (effectiveAddress s.width base (offsetField f.ins)) = none) :
    (ownOf f.ins s.width).mem2 f s = .next (s.raiseFatal
      ⟨.memIndex, f.label, .address, effectiveAddress s.width base (offsetField f.ins)⟩) := by
  obtain ⟨t, ht⟩ := ownMem2_total hres s
  rcases ownMem2_cases ht with ⟨hload, hstore, -⟩ | ⟨_, _, _, _, base', _, hi, -, hbase', ha, -⟩ |
    ⟨_, _, _, base', _, _, hi, hbase', -, ha, -⟩ | ⟨off, base', hi, hbase', -, rfl⟩
  · simp [isAccess_eq_false hload hstore] at haccess
  · obtain rfl : base = base' := Option.some.inj (hbase.symm.trans hbase')
    simp [hi, offsetField, ha] at hbad
  · obtain rfl : base = base' := Option.some.inj (hbase.symm.trans hbase')
    simp [hi, offsetField, ha] at hbad
  · obtain rfl : base = base' := Option.some.inj (hbase.symm.trans hbase')
    have hoffset : offsetField f.ins = off := by
      rcases hi with ⟨_, _, hi⟩ | ⟨_, _, hi⟩ <;> rw [hi] <;> rfl
    rw [ht, hoffset]

/-- Settles O28: the own work is the fatal error, after which MEM2 does not move its slot on. -/
theorem badAddressIsFatalAtMem2 : Obligations.BadAddressIsFatalAtMem2 := by
  intro s f base hs hf haccess hres hbase hbad
  rw [exec_occupant_at hs (by decide) hf (resolved_spec hres).1, flightWork_mem2 hs,
    ownMem2_of_bad_address haccess hres hbase hbad, andThen_next, moveOn, ifRunning_stopped (by simp)]
  rfl

/-! #### The cycle that a fatal error stops (R201, R205) -/

/-- A cycle that a fatal error stops has its status, and leaves what only ID, IF1 and the end of the cycle write
(R201). -/
structure StopsWith (s t : State) (info : FatalInfo) : Prop where
  status : t.status = .fatal info
  front : SameFront s t
  pendingStall : t.pendingStall = s.pendingStall

/-- Slots and data when MEM2 starts, which it leaves when it stops the cycle: only the move of MEM3 has been made (R204,
R206 (b)). -/
structure AfterMem3 (s t : State) : Prop where
  slots : t.slots = { s.slots with slot7 := s.slots.slot6 }
  regs : t.regs = s.regs
  mem : t.mem = s.mem
  reserved : t.reserved = s.reserved
  brTaken : t.brTaken = s.brTaken
  brTarget : t.brTarget = s.brTarget

/-- Slots and data when ID starts, which it leaves when it stops the cycle: the stages WB to EX have done their work
(R201). -/
structure AfterEx (s t : State) : Prop where
  slots : t.slots = { s.slots with
    slot4 := s.slots.slot3, slot5 := s.slots.slot4, slot6 := s.slots.slot5, slot7 := s.slots.slot6 }
  mem : t.mem = memAfter s
  regs : ∀ k : Fin Config.numRegs, t.regs[k] = regAfter s k
  reserved : ∀ k : Fin Config.numRegs,
    t.reserved[k] = (s.reserved[k] && !s.slots.slot5.any fun f => loadsTo f.ins k)

/-- What the stages MEM2, MEM1 and EX have done by the start of ID, when WB and MEM3 are through (R105 to R109). -/
theorem afterEx_of_stages {s mem3 mem2 mem1 ex : State}
    (hmem3 : mem3 = { s with
      stage := .mem3, events := slotEvents s.slots.slot7 .wb ++ slotEvents s.slots.slot6 .mem3
      slots := { s.slots with slot7 := s.slots.slot6 } })
    (hr : s.status = .running) (hmem2 : mem3.runStage .mem2 = .next mem2) (rmem2 : mem2.status = .running)
    (hmem1 : mem1 = { mem2 with
      stage := .mem1, events := mem2.events ++ slotEvents mem2.slots.slot4 .mem1
      slots := { mem2.slots with slot5 := mem2.slots.slot4 } })
    (hex : mem1.runStage .ex = .next ex) : AfterEx s ex := by
  have rmem3 : mem3.status = .running := by rw [hmem3]; exact hr
  have rmem1 : mem1.status = .running := by rw [hmem1]; exact rmem2
  obtain ⟨-, slots2⟩ := (runStage_mem2_moves rmem3 hmem2).resolve_left fun e => not_fatal_of_running rmem2 e.1
  obtain ⟨-, slotsEx, -⟩ := runStage_ex_moves rmem1 hex
  have dmem2 := runStage_mem2_running rmem3 hmem2 rmem2
  have dex := runStage_ex_data rmem1 hex
  have slots1 : mem1.slots =
      { s.slots with slot5 := s.slots.slot4, slot6 := s.slots.slot5, slot7 := s.slots.slot6 } := by
    simp only [hmem1, slots2, hmem3]
  have width1 : mem1.width = s.width := by
    rw [hmem1]
    exact (runStage_frame hmem2).1.trans (by rw [hmem3])
  refine ⟨by rw [slotsEx, slots1], ?_, fun k => ?_, fun k => ?_⟩
  · rw [dex.mem, hmem1, dmem2.mem, hmem3]
    rfl
  · have hloaded : mem1.regs[k] = loadedReg s k := by rw [hmem1, dmem2.regs, hmem3]; rfl
    rw [dex.regs, hloaded, regAfter_eq, computedReg_congr (by rw [slots1]) width1]
  · rw [dex.reserved, hmem1, dmem2.reserved, hmem3]

/-- A cycle of a Running engine is stopped by the fatal error at MEM2, or else by that at ID, or it is whole (R201,
R205). -/
theorem runCycle_stopped_or_whole {s t : State} (hr : s.status = .running) (h : s.runCycle = .next t) :
    (∃ info, mem2Fatal? s = some info ∧ StopsWith s t info ∧ AfterMem3 s t) ∨
    (∃ info, mem2Fatal? s = none ∧ idFatal? s = some info ∧ StopsWith s t info ∧ AfterEx s t) ∨
    cycleFatal? s = none := by
  rcases runCycle_next hr h with ⟨wb, mem3, rfl, hmem3, hstop⟩ | ⟨_, _, _, _, _, _, _, _, hchain⟩
  · have front3 : SameFront s mem3 := by rw [hmem3]; exact ⟨rfl, rfl, rfl, rfl, rfl, rfl, rfl⟩
    have pending3 : mem3.pendingStall = s.pendingStall := by rw [hmem3]
    have rmem3 : mem3.status = .running := by rw [hmem3]; exact hr
    have fatal3 : mem2Fatal? mem3 = mem2Fatal? s := by rw [hmem3]; rfl
    rcases hstop with ⟨hmem2, hstop⟩ | ⟨mem2, mem1, hmem2, rmem2, hmem1, hstop⟩
    · obtain ⟨info, hinfo, rfl⟩ := (runStage_mem2_data rmem3 hmem2).resolve_right fun e => hstop e.1
      refine .inl ⟨info, fatal3 ▸ hinfo, ⟨rfl, front3.trans (runStage_sameFront (by decide) hmem2), pending3⟩, ?_⟩
      rw [hmem3]
      exact ⟨rfl, rfl, rfl, rfl, rfl, rfl⟩
    · have rmem1 : mem1.status = .running := by rw [hmem1]; exact rmem2
      rcases hstop with ⟨hex, hstop⟩ | ⟨ex, hex, rex, hid, hstop⟩
      · exact absurd (runStage_ex_moves rmem1 hex).1 hstop
      · have front1 : SameFront mem2 mem1 := by rw [hmem1]; exact ⟨rfl, rfl, rfl, rfl, rfl, rfl, rfl⟩
        have pending1 : mem1.pendingStall = mem2.pendingStall := by rw [hmem1]
        have hdata := afterEx_of_stages hmem3 hr hmem2 rmem2 hmem1 hex
        obtain ⟨info, hinfo, rfl⟩ := (runStage_id_data rex hid).resolve_right fun e => hstop e.1
        refine .inr (.inl ⟨info, ?_, ?_, ⟨rfl, ?_, ?_⟩, ⟨hdata.slots, hdata.mem, hdata.regs, hdata.reserved⟩⟩)
        · rw [← fatal3]
          exact (runStage_mem2_running rmem3 hmem2 rmem2).fatal
        · rw [← hinfo]
          exact (idFatal?_congr (by rw [hdata.slots])).symm
        · exact front3.trans <| (runStage_sameFront (by decide) hmem2).trans <| front1.trans <|
            (runStage_sameFront (by decide) hex).trans (runStage_sameFront (by decide) hid)
        · exact (runStage_pendingStall (by decide) hex).trans <| pending1.trans <|
            (runStage_pendingStall (by decide) hmem2).trans pending3
  · exact .inr (.inr (hchain.data hr).fatal)

/-- Settles O39. The step has a next state, and its cycle, which is no whole one, was stopped at MEM2 or at ID. -/
theorem fatalErrorStopsTheCycle : Obligations.FatalErrorStopsTheCycle := by
  intro s info hinv hr hcursor hfatal
  obtain ⟨t, ht⟩ := stepAlwaysHasANextState s hinv (Bool.not_eq_true _ ▸ not_fatal_of_running hr)
  rcases runCycle_stopped_or_whole hr (step_running hr hcursor ▸ ht) with
    ⟨info', hmem2, hstop, hdata⟩ | ⟨info', hmem2, hid, hstop, hdata⟩ | hnone
  · obtain rfl : info' = info := by simpa [cycleFatal?, hmem2] using hfatal
    exact ⟨t, ht, hstop.status, hstop.front.trace, hstop.front.cycle, hstop.front.currentStall, hstop.pendingStall,
      hstop.front.cursor, hstop.front.issue,
      fun _ => ⟨hdata.slots, hdata.regs, hdata.mem, hdata.reserved, hdata.brTaken, hdata.brTarget⟩,
      fun hnone => by simp [hmem2] at hnone⟩
  · obtain rfl : info' = info := by simpa [cycleFatal?, hmem2, hid] using hfatal
    exact ⟨t, ht, hstop.status, hstop.front.trace, hstop.front.cycle, hstop.front.currentStall, hstop.pendingStall,
      hstop.front.cursor, hstop.front.issue, fun hsome => by simp [hmem2] at hsome,
      fun _ => ⟨hdata.slots, hdata.mem, fun k => ⟨hdata.regs k, hdata.reserved k⟩⟩⟩
  · simp [hnone] at hfatal

end Sys2Proof.Machine

/-! ### A state and its numbering: nothing that a step does depends on it (R212) -/

namespace Sys2Proof.Machine

/-! #### What taking the numbering away leaves, and how it passes the operations -/

section unlabelled
variable (s : State) (sl : Slots) (f : InFlight) (st : Stage) (v : Option InFlight)

@[simp] theorem unlabelled_width : s.unlabelled.width = s.width := rfl
@[simp] theorem unlabelled_slots : s.unlabelled.slots = s.slots.unlabelled := rfl
@[simp] theorem unlabelled_pendingStall : s.unlabelled.pendingStall = s.pendingStall := rfl
@[simp] theorem unlabelled_brTaken : s.unlabelled.brTaken = s.brTaken := rfl
@[simp] theorem unlabelled_status : s.unlabelled.status = s.status.unlabelled := rfl
@[simp] theorem unlabelled_stage : s.unlabelled.stage = s.stage := rfl
@[simp] theorem unlabelled_ins : f.unlabelled.ins = f.ins := rfl
@[simp] theorem unlabelled_rsv : f.unlabelled.rsv = f.rsv := rfl
@[simp] theorem unlabelled_rtv : f.unlabelled.rtv = f.rtv := rfl
@[simp] theorem unlabelled_slot1 : sl.unlabelled.slot1 = sl.slot1.map InFlight.unlabelled := rfl

/-- The slot of a stage without its label. -/
@[simp] theorem unlabelled_get : sl.unlabelled.get st = (sl.get st).map InFlight.unlabelled := by cases st <;> rfl

@[simp] theorem unlabelled_flight (i : Instr) (n : Nat) (a b : Option Word) :
    InFlight.unlabelled ⟨i, n, a, b⟩ = ⟨i, 0, a, b⟩ := rfl
@[simp] theorem unlabelled_fatalInfo (kind : FatalKind) (n : Nat) (field : FatalField) (w : Int) :
    FatalInfo.unlabelled ⟨kind, n, field, w⟩ = ⟨kind, 0, field, w⟩ := rfl

/-- An instruction in flight without its label has none to take away. -/
@[simp] theorem unlabelled_unlabelled_flight : f.unlabelled.unlabelled = f.unlabelled := rfl

/-- A state without its numbering has none to take away. -/
@[simp] theorem unlabelled_unlabelled : s.unlabelled.unlabelled = s.unlabelled := by
  have hflight : InFlight.unlabelled ∘ InFlight.unlabelled = InFlight.unlabelled := rfl
  have hstatus : s.status.unlabelled.unlabelled = s.status.unlabelled := by cases s.status <;> rfl
  simp [State.unlabelled, Slots.unlabelled, hflight, hstatus]

/-- An engine without its numbering is Running exactly when the engine is. -/
@[simp] theorem unlabelled_status_eq_running (status : Status) : status.unlabelled = .running ↔ status = .running := by
  cases status <;> simp [Status.unlabelled]

/-- Slots without their labels are EMPTY exactly when the slots are (R28). -/
@[simp] theorem unlabelled_slots_eq_empty : sl.unlabelled = Slots.empty ↔ sl = Slots.empty := by
  cases sl
  simp [Slots.unlabelled, Slots.empty]

/-- The instruction that a slot holds has no numbering (R28). -/
@[simp] theorem occupant_unlabelled : occupant (v.map InFlight.unlabelled) = occupant v := by cases v <;> rfl

@[simp] theorem emit_unlabelled (n : Nat) (g : Tag) : (s.emit n g).unlabelled = s.unlabelled := rfl
@[simp] theorem setPending_unlabelled (b : Bool) : (s.setPending b).unlabelled = s.unlabelled.setPending b := rfl
@[simp] theorem takeBranch_unlabelled (t : Int) : (s.takeBranch t).unlabelled = s.unlabelled.takeBranch t := rfl
@[simp] theorem memWrite_unlabelled (a : Nat) (w : Word) :
    (s.memWrite a w).unlabelled = s.unlabelled.memWrite a w := rfl
@[simp] theorem writeReg_unlabelled (k : Fin Config.numRegs) (w : Word) :
    (s.writeReg k w).unlabelled = s.unlabelled.writeReg k w := rfl
@[simp] theorem setReserved_unlabelled (k : Fin Config.numRegs) (b : Bool) :
    (s.setReserved k b).unlabelled = s.unlabelled.setReserved k b := rfl
@[simp] theorem raiseFatal_unlabelled (info : FatalInfo) :
    (s.raiseFatal info).unlabelled = s.unlabelled.raiseFatal info.unlabelled := rfl

@[simp] theorem setSlot_unlabelled :
    (s.setSlot st v).unlabelled = s.unlabelled.setSlot st (v.map InFlight.unlabelled) := by cases st <;> rfl

@[simp] theorem reserve_unlabelled (i : Int) : (s.reserve i).unlabelled = s.unlabelled.reserve i := by
  unfold State.reserve
  split <;> rfl

@[simp] theorem memRead_unlabelled (a : Nat) : s.unlabelled.memRead a = s.memRead a := rfl

/-- The values that ID reads do not depend on the numbering (R118). -/
@[simp] theorem resolve_unlabelled : (resolve s f).unlabelled = resolve s.unlabelled f.unlabelled := rfl

/-- The hazard test does not depend on the numbering (R115). -/
@[simp] theorem hazard_unlabelled (i : Instr) : hazard i s.unlabelled = hazard i s := hazard_congr rfl i

/-- The hazard test does not read the events (R115). -/
@[simp] theorem hazard_emit (i : Instr) (n : Nat) (g : Tag) : hazard i (s.emit n g) = hazard i s := hazard_congr rfl i

end unlabelled

@[simp] theorem unlabelled_next (s : State) : Out.unlabelled (.next s) = .next s.unlabelled := rfl

/-! #### Sequences -/

/-- A sequence shows nothing of the numbering when what goes on shows nothing of it. -/
theorem andThen_unlabelled {k k' : State → Out}
    (hk : ∀ t, Out.unlabelled (k t) = Out.unlabelled (k' t.unlabelled)) (o : Out) :
    Out.unlabelled (o.andThen k) = Out.unlabelled (o.unlabelled.andThen k') := by
  cases o with
  | next t => exact hk t
  | fault r => cases r <;> rfl
  | refused r => rfl

/-- Whether the cycle goes on after a fatal error does not depend on the numbering (R201). -/
theorem ifRunning_unlabelled {k k' : State → Out} (s : State)
    (hk : Out.unlabelled (k s) = Out.unlabelled (k' s.unlabelled)) :
    Out.unlabelled (s.ifRunning k) = Out.unlabelled (s.unlabelled.ifRunning k') := by
  by_cases hr : s.status = .running
  · simpa [State.ifRunning, hr, Status.unlabelled] using hk
  · simp [State.ifRunning, hr]

/-- A part of a cycle that shows nothing of the numbering: without its numbering, what it answers is what it answers for
the state without its numbering. -/
def LabelBlind (k : State → Out) : Prop := ∀ s, Out.unlabelled (k s) = Out.unlabelled (k s.unlabelled)

/-- Parts that show nothing of the numbering show nothing of it one after the other. -/
theorem LabelBlind.andThen {k k' : State → Out} (hk : LabelBlind k) (hk' : LabelBlind k') :
    LabelBlind fun s => (k s).andThen k' := by
  intro s
  rw [andThen_unlabelled hk', hk, ← andThen_unlabelled hk']

/-! #### The work of a stage -/

/-- States that differ in their numbering only do so after their fetches are counted on (R126). -/
theorem advance_unlabelled {s t : State} (h : s.unlabelled = t.unlabelled) (c : Int) (n m : Nat) :
    State.unlabelled { s with cursor := c, issue := n } = State.unlabelled { t with cursor := c, issue := m } :=
  congrArg (fun u : State => { u with cursor := c }) h

/-- IF1 gives its label to what it fetches, and does nothing else with it (R124). -/
theorem if1Work_unlabelled (s : State) (c : Option Instr) :
    (s.if1Work c).unlabelled = (s.unlabelled.if1Work c).unlabelled := by
  cases hp : s.pendingStall <;> cases c <;> simp only [State.if1Work, unlabelled_pendingStall, hp]
  case true.none | true.some => simp
  case false.none | false.some => exact advance_unlabelled (by simp) _ _ _

/-- IF2 does nothing with a label but tell it (R122). -/
theorem if2Work_unlabelled (s : State) : s.if2Work.unlabelled = s.unlabelled.if2Work.unlabelled := by
  cases hp : s.pendingStall <;> cases hf : s.slots.slot1 <;> simp [State.if2Work, hp, hf]

/-- The work on an EMPTY slot shows nothing of the numbering. -/
theorem emptyWork_unlabelled (s : State) : s.emptyWork.unlabelled = s.unlabelled.emptyWork.unlabelled := by
  cases hs : s.stage <;> simp only [State.emptyWork, hs, unlabelled_stage]
  case if1 => exact if1Work_unlabelled s none
  case if2 => exact if2Work_unlabelled s
  all_goals simp [State.idEmpty]

/-- An instruction's own work shows nothing of the numbering: on entering ID it reads none, and at EX and MEM2 a fatal
error alone has a label. -/
structure OwnWork.LabelBlind (own : OwnWork) : Prop where
  enter : ∀ s, (own.enter s).unlabelled = own.enter s.unlabelled
  ex : ∀ f s, Out.unlabelled (own.ex f s) = Out.unlabelled (own.ex f.unlabelled s.unlabelled)
  mem2 : ∀ f s, Out.unlabelled (own.mem2 f s) = Out.unlabelled (own.mem2 f.unlabelled s.unlabelled)

/-- No work shows nothing of the numbering. -/
theorem noWork_unlabelled (f : InFlight) (s : State) :
    Out.unlabelled (noWork f s) = Out.unlabelled (noWork f.unlabelled s.unlabelled) := by
  simp [noWork]

/-- The second operand of the ALU does not depend on the label (R181). -/
@[simp] theorem secondOperand_unlabelled (W : Nat) (f : InFlight) :
    secondOperand W f.unlabelled = secondOperand W f := rfl

/-- The ALU does not depend on the label (R181). -/
theorem aluAtEx_unlabelled (op : Word → Word → Word) (rd : Int) (f : InFlight) (s : State) :
    Out.unlabelled (aluAtEx op rd f s) = Out.unlabelled (aluAtEx op rd f.unlabelled s.unlabelled) := by
  simp only [aluAtEx, unlabelled_width, unlabelled_rsv, secondOperand_unlabelled]
  split <;> simp

/-- Whether a branch is taken does not depend on the label (R170). -/
theorem bnezAtEx_unlabelled (target : Int) (f : InFlight) (s : State) :
    Out.unlabelled (bnezAtEx target f s) = Out.unlabelled (bnezAtEx target f.unlabelled s.unlabelled) := by
  simp only [bnezAtEx, unlabelled_rsv]
  split
  · split <;> simp
  · rfl

/-- A LOAD at MEM2 shows its label in its fatal error only (R151, R203). -/
theorem loadAtMem2_unlabelled (rd offset : Int) (f : InFlight) (s : State) :
    Out.unlabelled (loadAtMem2 rd offset f s) = Out.unlabelled (loadAtMem2 rd offset f.unlabelled s.unlabelled) := by
  simp only [loadAtMem2, unlabelled_width, unlabelled_rsv]
  split
  · split <;> simp
  · rfl

/-- A STORE at MEM2 shows its label in its fatal error only (R156, R203). -/
theorem storeAtMem2_unlabelled (offset : Int) (f : InFlight) (s : State) :
    Out.unlabelled (storeAtMem2 offset f s) = Out.unlabelled (storeAtMem2 offset f.unlabelled s.unlabelled) := by
  simp only [storeAtMem2, unlabelled_width, unlabelled_rsv, unlabelled_rtv]
  split
  · split <;> simp
  · rfl

/-- No instruction's own work shows anything of the numbering. -/
theorem ownOf_labelBlind (i : Instr) (W : Nat) : (ownOf i W).LabelBlind := by
  cases i with
  | load rd rs offset => exact ⟨fun s => reserve_unlabelled s rd, noWork_unlabelled, loadAtMem2_unlabelled rd offset⟩
  | store rt rs offset => exact ⟨fun _ => rfl, noWork_unlabelled, storeAtMem2_unlabelled offset⟩
  | bnez rs target => exact ⟨fun _ => rfl, bnezAtEx_unlabelled target, noWork_unlabelled⟩
  | add rd | addi rd | sub rd | subi rd => exact ⟨fun _ => rfl, aluAtEx_unlabelled _ rd, noWork_unlabelled⟩
  | nop => exact ⟨fun _ => rfl, noWork_unlabelled, noWork_unlabelled⟩

/-- ID shows nothing of the numbering but the label of its fatal error (R110 to R120). -/
theorem idWork_unlabelled {own : OwnWork} (hown : own.LabelBlind) (s : State) (f : InFlight) :
    (s.idWork own.enter f).unlabelled = (s.unlabelled.idWork own.enter f.unlabelled).unlabelled := by
  have hhazard : hazard f.ins (own.enter s.unlabelled) = hazard f.ins (own.enter s) := by
    rw [← hown.enter, hazard_unlabelled]
  cases hbad : firstBadField f.ins with
  | some e => simp [State.idWork, hbad]
  | none => cases hstall : hazard f.ins (own.enter s) <;> simp [State.idWork, hbad, hhazard, hstall, hown.enter]

/-- An own work that shows nothing of the numbering shows nothing of it with the end of its stage. -/
theorem andThen_moveOn_unlabelled {o o' : Out} (h : o.unlabelled = o'.unlabelled) (f : InFlight) (tag : Tag)
    (st : Stage) :
    Out.unlabelled (o.andThen (moveOn f tag st)) = Out.unlabelled (o'.andThen (moveOn f.unlabelled tag st)) := by
  have hend (g : InFlight) (t : State) :
      Out.unlabelled (moveOn g tag st t) = Out.unlabelled (moveOn g.unlabelled tag st t.unlabelled) :=
    ifRunning_unlabelled t (by simp)
  rw [andThen_unlabelled (hend f), h]
  exact (andThen_unlabelled (hend f.unlabelled) o').symm

/-- The work of a stage shows nothing of the numbering. -/
theorem flightWork_unlabelled {own : OwnWork} (hown : own.LabelBlind) (s : State) (f : InFlight) :
    Out.unlabelled (s.flightWork own f) = Out.unlabelled (s.unlabelled.flightWork own f.unlabelled) := by
  cases hs : s.stage
  case ex =>
    rw [flightWork_ex hs, flightWork_ex (s := s.unlabelled) hs]
    exact andThen_moveOn_unlabelled (hown.ex f s) f .ex .mem1
  case mem2 =>
    rw [flightWork_mem2 hs, flightWork_mem2 (s := s.unlabelled) hs]
    exact andThen_moveOn_unlabelled (hown.mem2 f s) f .mem2 .mem3
  all_goals simp only [State.flightWork, hs, unlabelled_stage]
  case if1 => exact congrArg Host.Outcome.next (if1Work_unlabelled s _)
  case if2 => exact congrArg Host.Outcome.next (if2Work_unlabelled s)
  case id => exact congrArg Host.Outcome.next (idWork_unlabelled hown s f)
  all_goals simp

/-- The meaning of NOP shows nothing of the numbering (R190). -/
theorem exec_nop_labelBlind : LabelBlind (exec .nop) := by
  intro s
  by_cases hs : s.stage = .if1
  · rw [exec_nop_if1 hs, exec_nop_if1 (s := s.unlabelled) hs]
    exact congrArg Host.Outcome.next (if1Work_unlabelled s none)
  · cases hf : s.slots.get s.stage with
    | none =>
      rw [exec_empty hs hf, exec_empty (s := s.unlabelled) hs (by simp [hf])]
      exact congrArg Host.Outcome.next (emptyWork_unlabelled s)
    | some f => simp [exec, execNop, hs, hf]

/-- The meaning of every instruction shows nothing of the numbering. -/
theorem exec_labelBlind (i : Instr) : LabelBlind (exec i) := by
  by_cases hi : i = .nop
  · exact hi ▸ exec_nop_labelBlind
  intro s
  by_cases hs : s.stage = .if1
  · rw [exec_if1 hi hs, exec_if1 (s := s.unlabelled) hi hs]
    exact congrArg Host.Outcome.next (if1Work_unlabelled s (some i))
  · rw [exec_eq_perform hi, exec_eq_perform hi, unlabelled_width]
    cases hf : s.slots.get s.stage with
    | none => simp [State.perform, hs, hf]
    | some f =>
      by_cases hins : f.ins = i
      · simpa [State.perform, hs, hf, hins] using flightWork_unlabelled (ownOf_labelBlind i s.width) s f
      · simp [State.perform, hs, hf, hins]

/-! #### The cycle and the step -/

/-- A stage of the cycle shows nothing of the numbering. -/
theorem runStage_labelBlind (st : Stage) : LabelBlind fun s => s.runStage st := by
  intro s
  refine ifRunning_unlabelled s ?_
  rw [unlabelled_slots, unlabelled_get, occupant_unlabelled]
  exact exec_labelBlind _ _

/-- What is fetched does not depend on the numbering (R124). -/
theorem runFetch_labelBlind : LabelBlind State.runFetch := by
  intro s
  refine ifRunning_unlabelled s ?_
  have hfetched : s.unlabelled.fetched = s.fetched := rfl
  rw [hfetched]
  split
  · exact exec_labelBlind _ _
  · rfl

@[simp] theorem squash_unlabelled (s : State) : s.squash.unlabelled = s.unlabelled.squash := by
  cases hb : s.brTaken <;> simp only [State.squash, unlabelled_brTaken, hb] <;> rfl

@[simp] theorem latchStall_unlabelled (s : State) : s.latchStall.unlabelled = s.unlabelled.latchStall := rfl

@[simp] theorem record_unlabelled (s : State) : s.record.unlabelled = s.unlabelled := rfl

@[simp] theorem drainTest_unlabelled (s : State) : s.drainTest.unlabelled = s.unlabelled.drainTest := by
  simp only [State.drainTest, unlabelled_slots, unlabelled_slots_eq_empty]
  split <;> rfl

/-- The end of a cycle shows the cycle counter in the trace only (R131). -/
theorem finish_unlabelled (s : State) : s.finish.unlabelled = s.unlabelled.finish.unlabelled := by
  simp [State.finish]

/-- The end of a cycle, also of one that a fatal error has stopped, shows nothing of the numbering (R128). -/
theorem endCycle_labelBlind : LabelBlind State.endCycle := fun s =>
  ifRunning_unlabelled s (congrArg Host.Outcome.next (finish_unlabelled s))

/-- A cycle shows nothing of the numbering: its stages show nothing of it one after the other (R100). -/
theorem runCycle_labelBlind : LabelBlind State.runCycle := by
  have hstages : LabelBlind State.backStages := fun s =>
    ((runStage_labelBlind .wb).andThen <| (runStage_labelBlind .mem3).andThen <|
      (runStage_labelBlind .mem2).andThen <| (runStage_labelBlind .mem1).andThen <| (runStage_labelBlind .ex).andThen <|
      (runStage_labelBlind .id).andThen (runStage_labelBlind .if2)) { s with events := [] }
  exact hstages.andThen (runFetch_labelBlind.andThen endCycle_labelBlind)

/-- A step shows nothing of the numbering, be it a cycle, the end of a run or that of one that has ended (R101). -/
theorem step_labelBlind : LabelBlind step := by
  intro s
  cases hs : s.status with
  | running =>
    have hs' : s.unlabelled.status = .running := (unlabelled_status_eq_running _).2 hs
    by_cases hc : s.cursorInStore
    · rw [step_running hs hc, step_running hs' hc]
      exact runCycle_labelBlind s
    · rw [step_cursorOut hs hc, step_cursorOut hs' hc]
      exact congrArg (fun t : State => (.next { t with status := .done .cursorOut } : Out))
        (unlabelled_unlabelled s).symm
  | done why =>
    rw [step_done hs, step_done (s := s.unlabelled) (congrArg Status.unlabelled hs)]
    simp
  | fatal info =>
    rw [step_fatal hs, step_fatal (s := s.unlabelled) (congrArg Status.unlabelled hs)]
    rfl

/-- Settles O60: both steps are, without their numbering, that of the one state without it. -/
theorem labelsInfluenceNothing : Obligations.LabelsInfluenceNothing := by
  intro s s' h
  rw [step_labelBlind s, h, ← step_labelBlind s']

end Sys2Proof.Machine

/-! ### Reset and launch: which launches are refused, and that a run starts in the invariant (R78, R230 to R233) -/

namespace Sys2Proof.Machine

/-! #### The points of R78, one by one -/

/-- A value breaks points 3, 5 and 6 of R78 exactly when it is outside the signed range. -/
theorem inSignedRange_eq_false {W : Nat} {n : Int} : inSignedRange W n = false ↔ outsideSigned W n := by
  rw [← Bool.not_eq_true, inSignedRange_iff, not_and_or, not_le, not_lt, outsideSigned]

/-- A target breaks point 4 of R78 exactly when it is outside 0 to 127. -/
theorem isTarget_eq_false {n : Int} : isTarget n = false ↔ ¬ (0 ≤ n ∧ n ≤ 127) := by
  simp only [isTarget, Config.storeCap, Bool.and_eq_false_iff, decide_eq_false_iff_not]
  omega

/-- A record breaks point 2 of R78 exactly when it lacks its format's rt field or has one too many. -/
theorem shapeOk_eq_false {r : Record} :
    r.shapeOk = false ↔
      (r.rt = none ∧ (r.code = 1 ∨ r.code = 3 ∨ r.code = 5)) ∨
      (r.rt ≠ none ∧ (r.code = 0 ∨ r.code = 2 ∨ r.code = 4 ∨ r.code = 6 ∨ r.code = 7)) := by
  obtain ⟨code, rd, rs, rt, offset⟩ := r
  cases rt with
  | none =>
    have hwith : codeHasRt code = true ↔ code = 1 ∨ code = 3 ∨ code = 5 :=
      ⟨codeHasRt_eq_true, by rintro (rfl | rfl | rfl) <;> rfl⟩
    simpa [Record.shapeOk] using hwith
  | some rt =>
    have hwithout : codeHasRt code = false ↔ code = 0 ∨ code = 2 ∨ code = 4 ∨ code = 6 ∨ code = 7 :=
      ⟨codeHasRt_eq_false, by rintro (rfl | rfl | rfl | rfl | rfl) <;> rfl⟩
    simpa [Record.shapeOk] using hwithout

/-- A record breaks point 3 or 4 of R78 exactly when its opcode reads its offset and the offset is outside the range of
that opcode. -/
theorem offsetOk_eq_false {W : Nat} {r : Record} :
    r.offsetOk W = false ↔
      (r.code = 2 ∧ ¬ (0 ≤ r.offset ∧ r.offset ≤ 127)) ∨
      ((r.code = 0 ∨ r.code = 1 ∨ r.code = 4 ∨ r.code = 6) ∧ outsideSigned W r.offset) := by
  rw [← isTarget_eq_false, ← inSignedRange_eq_false]
  simp only [Record.offsetOk, beq_iff_eq, Bool.or_eq_true, or_assoc]
  split_ifs with hbranch hsigned
  · simp [hbranch]
  · simp only [hbranch, hsigned, false_and, false_or, true_and]
  · simp only [hbranch, hsigned, false_and, or_false]

/-- A record is ill formed exactly when it breaks point 2, 3 or 4 of R78. -/
theorem record_wf_eq_false {W : Nat} {r : Record} : r.wf W = false ↔ breaksR78 W r := by
  rw [Record.wf, Bool.and_eq_false_iff, shapeOk_eq_false, offsetOk_eq_false, or_assoc, breaksR78]

/-- An initial register breaks point 5 of R78 by its key or by its value. -/
theorem registerOk_eq_false {W : Nat} {e : Int × Int} :
    Launch.registerOk W e = false ↔ ¬ (0 ≤ e.1 ∧ e.1 ≤ 31) ∨ outsideSigned W e.2 := by
  have hkey : (0 ≤ e.1 ∧ e.1 < Config.numRegs) ↔ 0 ≤ e.1 ∧ e.1 ≤ 31 := by
    simp only [Config.numRegs]
    omega
  rw [Launch.registerOk, Bool.and_eq_false_iff, ← Bool.decide_and, decide_eq_false_iff_not, hkey,
    inSignedRange_eq_false]

/-- An initial cell breaks point 6 of R78 by its key or by its value. -/
theorem memoryOk_eq_false {W : Nat} {e : Int × Int} :
    Launch.memoryOk W e = false ↔ ¬ (0 ≤ e.1 ∧ e.1 ≤ 1016 ∧ e.1 % 8 = 0) ∨ outsideSigned W e.2 := by
  have hkey : ((e.1 % Config.wordBytes = 0 ∧ 0 ≤ e.1) ∧ e.1 ≤ 1016) ↔ 0 ≤ e.1 ∧ e.1 ≤ 1016 ∧ e.1 % 8 = 0 := by
    simp only [Config.wordBytes]
    omega
  rw [Launch.memoryOk, Bool.and_eq_false_iff, ← Bool.decide_and, ← Bool.decide_and, decide_eq_false_iff_not, hkey,
    inSignedRange_eq_false]

/-! #### The launch that is refused (R233) -/

/-- A launch is well formed when it keeps every point of R78, gives no key twice and has a positive width (R40). -/
theorem launch_wf_iff {l : Launch} :
    l.wf = true ↔
      0 < l.width ∧ l.program.length ≤ Config.storeCap ∧ (∀ r ∈ l.program, r.wf l.width = true) ∧
      (∀ e ∈ l.registers, Launch.registerOk l.width e = true) ∧ (∀ e ∈ l.memory, Launch.memoryOk l.width e = true) ∧
      (l.registers.map Prod.fst).Nodup ∧ (l.memory.map Prod.fst).Nodup := by
  simp only [Launch.wf, Bool.and_eq_true, decide_eq_true_eq, List.all_eq_true, and_assoc]

/-- A launch starts a run exactly when it is well formed, and then in the state of its reset (R230). -/
theorem launch_eq_next_iff {l : Launch} {s : State} : launch l = .next s ↔ l.wf = true ∧ s = State.ofLaunch l := by
  cases hwf : l.wf <;> simp [launch, hwf, eq_comm]

/-- A launch is refused exactly when it is not well formed (R233). -/
theorem launch_refused_iff {l : Launch} : launch l = .refused .illFormedLaunch ↔ ¬ l.wf = true := by
  cases hwf : l.wf <;> simp [launch, hwf]

/-- Settles O7: refused is not well formed, a conjunction of which each part fails exactly by its point of R78. -/
theorem illFormedLaunchIsRefused : Obligations.IllFormedLaunchIsRefused := by
  intro l
  rw [launch_refused_iff, launch_wf_iff]
  simp only [not_and_or, not_forall, exists_prop, Bool.not_eq_true, record_wf_eq_false, registerOk_eq_false,
    memoryOk_eq_false, not_lt, not_le, Nat.le_zero, Config.storeCap]
  -- The model tests the width first, the statement names it last.
  rw [or_comm]
  simp only [or_assoc]

/-! #### The state that a launch starts from (R230) -/

/-- Settles O8: the fields of the reset state as they stand, register by register and cell by cell. -/
theorem resetLeavesTheEngineIdle : Obligations.ResetLeavesTheEngineIdle :=
  ⟨fun _ => ⟨Vector.getElem_replicate _, Vector.getElem_replicate _⟩, fun _ => rfl,
    fun _ => storeEntry_of_le (Nat.zero_le _), rfl, rfl, rfl, rfl, rfl, rfl, rfl, rfl, rfl, rfl⟩

/-- Reset is that of the launch that gives nothing (R230). -/
theorem reset_eq_ofLaunch : State.reset = State.ofLaunch ⟨Config.resetWidth, [], [], []⟩ := by
  have hregs : regsOf [] = Vector.replicate Config.numRegs 0 := Vector.ext fun k hk => by simp [regsOf]
  rw [State.ofLaunch, hregs]
  rfl

/-- A value in the signed range is a word (R9). -/
theorem wordOk_of_inSignedRange {W : Nat} (hW : 0 < W) {v : Int} (h : inSignedRange W v = true) :
    wordOk W v = true :=
  decide_eq_true (ofInt_of_inSignedRange hW h)

/-- A value that a list gives, or 0 where it gives none, is a word when the list's values are (R23, R39). -/
theorem wordOk_lookup {W : Nat} {entries : List (Int × Int)} (h : ∀ e ∈ entries, wordOk W e.2 = true) (key : Int) :
    wordOk W ((entries.lookup key).getD 0) = true := by
  induction entries with
  | nil => exact wordOk_zero W
  | cons e rest ih =>
    obtain ⟨he, hrest⟩ := List.forall_mem_cons.1 h
    rw [List.lookup_cons]
    split
    · exact he
    · exact ih hrest

/-- What the memory of a launch lists are values that the launch gives (R39). -/
theorem wordOk_memOf {W : Nat} {entries : List (Int × Int)} (h : ∀ e ∈ entries, wordOk W e.2 = true) :
    ∀ c ∈ memOf entries, wordOk W c.2 = true := by
  induction entries with
  | nil => simp [memOf]
  | cons e rest ih =>
    obtain ⟨he, hrest⟩ := List.forall_mem_cons.1 h
    intro c hc
    rcases mem_of_mem_write hc with rfl | hc
    · exact he
    · exact ih hrest c hc

/-- The value of a well-formed initial register is in range (R78 point 5). -/
theorem registerOk_value {W : Nat} {e : Int × Int} (h : Launch.registerOk W e = true) : inSignedRange W e.2 = true :=
  (Bool.and_eq_true_iff.1 h).2

/-- The value of a well-formed initial cell is in range (R78 point 6). -/
theorem memoryOk_value {W : Nat} {e : Int × Int} (h : Launch.memoryOk W e = true) : inSignedRange W e.2 = true :=
  (Bool.and_eq_true_iff.1 h).2

/-- Empty slots have no occupants to be wrong (R28). -/
theorem occupantsOk_empty (W : Nat) : Slots.empty.OccupantsOk W := by
  intro st f hf
  cases st <;> cases hf

/-- The content of the state that a well-formed launch starts from: canonical memory, a well-formed store, words (R78). -/
theorem contentOk_ofLaunch {l : Launch} (h : l.wf = true) : ContentOk (State.ofLaunch l) := by
  obtain ⟨hwidth, hlength, hrecords, hregisters, hmemory, -, -⟩ := launch_wf_iff.1 h
  refine ⟨memOf_wf (memory_of_launch_wf h), ?store, ?values, occupantsOk_empty l.width⟩
  case store => exact Bool.and_eq_true_iff.2 ⟨decide_eq_true hlength, List.all_eq_true.2 hrecords⟩
  case values =>
    have hregs : ∀ e ∈ l.registers, wordOk l.width e.2 = true := fun e he =>
      wordOk_of_inSignedRange hwidth (registerOk_value (hregisters e he))
    have hcells : ∀ e ∈ l.memory, wordOk l.width e.2 = true := fun e he =>
      wordOk_of_inSignedRange hwidth (memoryOk_value (hmemory e he))
    refine valuesOk_iff.2 ⟨fun k => ?_, wordOk_memOf hcells⟩
    simpa [State.ofLaunch, regsOf] using wordOk_lookup hregs (k.val : Int)

/-- A well-formed launch starts in the invariant: its content is good, and all else is as reset leaves it (R230). -/
theorem inv_ofLaunch {l : Launch} (h : l.wf = true) : (State.ofLaunch l).inv = true :=
  inv_iff.2 ⟨contentOk_ofLaunch h, .inr ⟨rfl, rfl, rfl⟩⟩

/-- Settles O42: reset is that of one well-formed launch, and a launch that answers is well formed. -/
theorem launchEstablishesTheInvariant : Obligations.LaunchEstablishesTheInvariant := by
  refine ⟨reset_eq_ofLaunch ▸ inv_ofLaunch rfl, fun l s h => ?_⟩
  obtain ⟨hwf, rfl⟩ := launch_eq_next_iff.1 h
  exact inv_ofLaunch hwf

end Sys2Proof.Machine
